-- ==== Sys2Proof/Word.lean ====
section
/-! DEFINITION. The widths that no parameter of spec/00_scope.md R8 sets (R9, R10, R50): bytes, byte strings, and
the 16-bit value that two bytes make. All values are unsigned. The widths that R8 makes parameters are in
Config.lean. -/

namespace Sys2Proof

/-- One byte of a string on a port (R50 point 3). -/
abbrev Byte := BitVec 8

/-- A 16-bit value: what `be16` assembles from two bytes (R10). -/
abbrev Word16 := BitVec 16

/-- A byte string, first byte first (R9). -/
abbrev Bytes := List Byte

end Sys2Proof
end

