-- ==== Sys2Proof/Config.lean ====
section
/-! DEFINITION. The parameters of SNPE (spec/00_scope.md R8), each a field whose default is the value R8 prints, the
constraints R8 puts on them, and the types whose widths and sizes are parameters. Every operation that reads a
parameter takes the configuration, `config` where none is given; the types of the state are those of `config`
(log 8). -/

namespace Sys2Proof

/-- The parameter table of R8. -/
structure Config where
  /-- `CK_W`, bits. -/
  ckW : Nat := 16
  /-- `CK_INIT`, the initial value of the checksum. -/
  ckInit : BitVec ckW := BitVec.ofNat ckW 0x1021
  /-- `MAX_PAYLOAD`, bytes. -/
  maxPayload : Nat := 29
  /-- `SMALL_MAX`, bytes. -/
  smallMax : Nat := 13
  /-- `BLOCK`, bytes. -/
  block : Nat := 16
  /-- `MAX_FRAME`, bytes. -/
  maxFrame : Nat := 32
  /-- `MAX_BODY`, bytes. -/
  maxBody : Nat := 24
  /-- `N`, slots. -/
  slots : Nat := 5
  /-- `RETRIES`, transmissions per phase. -/
  retries : Nat := 20
  /-- `SEND_INTERVAL`, ms. -/
  sendInterval : Nat := 50
  /-- `TTL`, ms. -/
  ttl : Nat := 1000
  /-- `TS_W`, bits. -/
  tsW : Nat := 32
  /-- `TICK_UNIT`, ms per timestamp count. -/
  tickUnit : Nat := 1
  /-- `NONCE_W`, bits. -/
  nonceW : Nat := 16
  /-- `T_REQN`. -/
  tReqn : Byte := 0x01#8
  /-- `T_NONCE`. -/
  tNonce : Byte := 0x02#8
  /-- `T_DATA`. -/
  tData : Byte := 0x03#8
  /-- `T_ACK`. -/
  tAck : Byte := 0x04#8
  /-- `PAD`, the pad byte an encoder writes. -/
  pad : Byte := 0x00#8
deriving DecidableEq, Repr

/-- The configuration of the machine: every parameter at the value R8 prints. -/
@[reducible] def config : Config := {}

/-- The constraints of R8, no more and no fewer. -/
abbrev Config.Admissible (c : Config) : Prop :=
  1 ≤ c.slots ∧ 1 ≤ c.retries ∧ c.retries ≤ 255 ∧ c.maxPayload = 5 + c.maxBody ∧
  3 + c.smallMax = c.block ∧ 3 + c.maxPayload = 2 * c.block ∧
  c.ttl < 2 ^ (c.tsW - 1) ∧ c.sendInterval < 2 ^ (c.tsW - 1) ∧
  [c.tReqn, c.tNonce, c.tData, c.tAck].Nodup

/-- A duration of `ms` milliseconds in timestamp counts of `TICK_UNIT` (R8). The unit of the spec is 1 ms; for another
unit a part of a count is dropped (log 17). -/
def Config.counts (c : Config) (ms : Nat) : Nat := ms / c.tickUnit

/-! ### Types whose size is a parameter -/

/-- A checksum, and the register `ACC`: `CK_W` bits (R8, R22). -/
abbrev Cksum := BitVec config.ckW

/-- A challenge, an issued nonce, a correlation token, a draw: `NONCE_W` bits (R8, R40). -/
abbrev Nonce := BitVec config.nonceW

/-- A timestamp: `TS_W` bits, modular (R8, R39). -/
abbrev Time := BitVec config.tsW

/-- `N`, the number of CAM slots (R8, R23). -/
abbrev numSlots : Nat := config.slots

/-- `MAX_BODY`, the number of bytes of the body store (R8, R33). -/
abbrev bodyCapacity : Nat := config.maxBody

end Sys2Proof
end

