-- ==== Sys2Proof/Syntax.lean ====
section
/-! DEFINITION. SNPE's instructions: the sixteen host commands of spec/30_encoding.md R72 and the four wire
messages of R76 to R80, one constructor per row of spec/opcode_table.json, in its order. The count byte `n`
of the formats `CV` and `CK` is the length of the byte string, as in the notation of R87 (log 10). -/

namespace Sys2Proof

/-- The two encoding spaces of R70: command records on `CMD`, and messages inside frames. -/
inductive Space where
  | host
  | wire
deriving DecidableEq, Repr

/-- An instruction: a host command or a wire message (R3). -/
inductive Instr where
  /-- `SYS.RESET` (R210). -/
  | sysReset
  /-- `CRC.INIT` (R104). -/
  | crcInit
  /-- `CRC.BYTE a` (R105). -/
  | crcByte (a : Byte)
  /-- `CRC.READ` (R106). -/
  | crcRead
  /-- `CRC.GEN n, s` (R107). -/
  | crcGen (p : Bytes)
  /-- `CRC.CHK k, n, s` (R108). -/
  | crcChk (k : Cksum) (p : Bytes)
  /-- `FRM.ENC n, s` (R122). -/
  | frmEnc (m : Bytes)
  /-- `FRM.DEC n, s` (R123). -/
  | frmDec (f : Bytes)
  /-- `CAM.REQ v` (R143). -/
  | camReq (v : Nonce)
  /-- `CAM.CHK v` (R144). -/
  | camChk (v : Nonce)
  /-- `CAM.RD a` (R145). -/
  | camRd (a : Byte)
  /-- `CAM.CNT` (R146). -/
  | camCnt
  /-- `TX.SEND n, s` (R162). -/
  | txSend (p : Bytes)
  /-- `TX.TICK` (R163). -/
  | txTick
  /-- `TX.STAT` (R164). -/
  | txStat
  /-- `RX.FRAME n, s` (R191). -/
  | rxFrame (f : Bytes)
  /-- The wire message `REQN c` (R77, R192). -/
  | reqn (c : Nonce)
  /-- The wire message `NONCE c, i` (R78, R165). -/
  | nonce (c i : Nonce)
  /-- The wire message `DATA i, k, b` (R79, R193). -/
  | data (i k : Nonce) (b : Bytes)
  /-- The wire message `ACK k` (R80, R166). -/
  | ack (k : Nonce)
deriving DecidableEq, Repr

/-- Which encoding space an instruction belongs to (R70). -/
def Instr.space : Instr → Space
  | .sysReset => .host
  | .crcInit => .host
  | .crcByte _ => .host
  | .crcRead => .host
  | .crcGen _ => .host
  | .crcChk _ _ => .host
  | .frmEnc _ => .host
  | .frmDec _ => .host
  | .camReq _ => .host
  | .camChk _ => .host
  | .camRd _ => .host
  | .camCnt => .host
  | .txSend _ => .host
  | .txTick => .host
  | .txStat => .host
  | .rxFrame _ => .host
  | .reqn _ => .wire
  | .nonce _ _ => .wire
  | .data _ _ _ => .wire
  | .ack _ => .wire

/-- The decoded form of a wire message, "one of four variants" (R76). -/
inductive Message where
  | reqn (challenge : Nonce)
  | nonce (challenge issued : Nonce)
  | data (issued correlation : Nonce) (body : Bytes)
  | ack (correlation : Nonce)
deriving DecidableEq, Repr

/-- The instruction that receiving a message is (R3 (b)). -/
def Message.toInstr : Message → Instr
  | .reqn c => .reqn c
  | .nonce c i => .nonce c i
  | .data i k b => .data i k b
  | .ack k => .ack k

end Sys2Proof
end

