-- ==== Sys2Proof/WellFormed.lean ====
section
/-! DEFINITION. Which instruction terms have an encoding: a counted string has at most 255 bytes, because its
count is one byte (spec/30_encoding.md R71), and the body of a `DATA` at most `MAX_BODY` = 24 (R79). A long
string is NOT ill-formed where the spec gives it a status (`CRC.GEN` of 30 bytes is `E_LEN`, R107). -/

namespace Sys2Proof

/-- The count byte of the formats `CV` and `CK` can name the string's length (R71). -/
abbrev Countable (p : Bytes) : Prop := p.length ≤ 255

/-- The test that an instruction term has an encoding. -/
def Instr.wellFormed : Instr → Bool
  | .sysReset => true
  | .crcInit => true
  | .crcByte _ => true
  | .crcRead => true
  | .crcGen p => decide (Countable p)
  | .crcChk _ p => decide (Countable p)
  | .frmEnc m => decide (Countable m)
  | .frmDec f => decide (Countable f)
  | .camReq _ => true
  | .camChk _ => true
  | .camRd _ => true
  | .camCnt => true
  | .txSend p => decide (Countable p)
  | .txTick => true
  | .txStat => true
  | .rxFrame f => decide (Countable f)
  | .reqn _ => true
  | .nonce _ _ => true
  | .data _ _ b => decide (b.length ≤ config.maxBody)
  | .ack _ => true

/-- The instruction term has an encoding. -/
abbrev Instr.WellFormed (i : Instr) : Prop := i.wellFormed = true

end Sys2Proof
end

