-- ==== Sys2Proof/Decode.lean ====
section
/-! DEFINITION. The two decoders of spec/30_encoding.md, host commands (R71, R72, R83) and wire messages (R76 to
R80, R84), both total on any bytes and rejecting by name; after them the encoder, and the form in which the
host asks for an opcode-table word. Byte order helpers (R10) stand first. -/

namespace Sys2Proof

/-! ### Byte order (R10, R51 to R53) -/

/-- `be16(h, l)`: a 16-bit value from two bytes, most significant first (R10). -/
def be16 (h l : Byte) : Word16 := h ++ l

/-- `hi(v) = v[15:8]` (R10). -/
def hi {w : Nat} (v : BitVec w) : Byte := v.extractLsb' 8 8

/-- `lo(v) = v[7:0]` (R10). -/
def lo {w : Nat} (v : BitVec w) : Byte := v.extractLsb' 0 8

/-- `be32(v)`: the four bytes of a 32-bit value, most significant first (R10). -/
def be32 (v : Time) : Bytes :=
  [v.extractLsb' 24 8, v.extractLsb' 16 8, v.extractLsb' 8 8, v.extractLsb' 0 8]

/-! ### Decoding -/

/-- Why a byte string is no instruction. -/
inductive DecodeError where
  /-- A command record of zero bytes (R212). -/
  | emptyRecord
  /-- A first byte that is none of the sixteen opcodes (R83, R211). -/
  | illegalOpcode
  /-- A record whose length does not fit the format of its opcode (R71, R212). -/
  | malformedRecord
  /-- A message with no type byte (R84). -/
  | emptyMessage
  /-- A message whose type byte is none of the four (R84). -/
  | unknownType
  /-- A message of a known type with a length that type does not allow (R84). -/
  | badMessageLength
deriving DecidableEq, Repr

/-- A row of the opcode map (R72): the format of R71 and the instruction its operands make. -/
inductive Layout where
  /-- `C0`: the opcode alone. -/
  | c0 (i : Instr)
  /-- `C1`: one operand byte `a`. -/
  | c1 (f : Byte → Instr)
  /-- `C2`: a big-endian 16-bit operand `v`. -/
  | c2 (f : Nonce → Instr)
  /-- `CV`: a count byte `n` and `n` bytes `s`. -/
  | cv (f : Bytes → Instr)
  /-- `CK`: a big-endian 16-bit operand `k`, a count byte `n` and `n` bytes `s`. -/
  | ck (f : Cksum → Bytes → Instr)

/-- The opcode map (R72). Every other first byte is illegal (R83). -/
def opcodeLayout (op : Byte) : Option Layout :=
  match op.toNat with
  | 0x00 => some (.c0 .sysReset)
  | 0x10 => some (.c0 .crcInit)
  | 0x11 => some (.c1 .crcByte)
  | 0x12 => some (.c0 .crcRead)
  | 0x13 => some (.cv .crcGen)
  | 0x14 => some (.ck .crcChk)
  | 0x20 => some (.cv .frmEnc)
  | 0x21 => some (.cv .frmDec)
  | 0x30 => some (.c2 .camReq)
  | 0x31 => some (.c2 .camChk)
  | 0x32 => some (.c1 .camRd)
  | 0x33 => some (.c0 .camCnt)
  | 0x40 => some (.cv .txSend)
  | 0x41 => some (.c0 .txTick)
  | 0x42 => some (.c0 .txStat)
  | 0x50 => some (.cv .rxFrame)
  | _ => none

/-- The bytes after the opcode, read by the opcode's format (R71). -/
def Layout.operands : Layout → Bytes → Except DecodeError Instr
  | .c0 i, [] => .ok i
  | .c0 _, _ :: _ => .error .malformedRecord
  | .c1 f, [a] => .ok (f a)
  | .c1 _, _ => .error .malformedRecord
  | .c2 f, [h, l] => .ok (f (be16 h l))
  | .c2 _, _ => .error .malformedRecord
  | .cv f, n :: s => if s.length = n.toNat then .ok (f s) else .error .malformedRecord
  | .cv _, [] => .error .malformedRecord
  | .ck f, h :: l :: n :: s =>
    if s.length = n.toNat then .ok (f (be16 h l) s) else .error .malformedRecord
  | .ck _, _ => .error .malformedRecord

/-- A command record, checked in the order of R213 (1) to (3). -/
def decodeCommand (c : Bytes) : Except DecodeError Instr :=
  match c with
  | [] => .error .emptyRecord
  | op :: rest =>
    match opcodeLayout op with
    | none => .error .illegalOpcode
    | some l => l.operands rest

/-- A message, by type byte and then by length (R76 to R80, R84, R190). -/
def decodeMessage (m : Bytes) (c : Config := config) : Except DecodeError Message :=
  match m with
  | [] => .error .emptyMessage
  | t :: fields =>
    if t = c.tReqn then
      match fields with
      | [ch, cl] => .ok (.reqn (be16 ch cl))
      | _ => .error .badMessageLength
    else if t = c.tNonce then
      match fields with
      | [ch, cl, ih, il] => .ok (.nonce (be16 ch cl) (be16 ih il))
      | _ => .error .badMessageLength
    else if t = c.tData then
      match fields with
      | ih :: il :: kh :: kl :: b =>
        if b.length ≤ c.maxBody then .ok (.data (be16 ih il) (be16 kh kl) b)
        else .error .badMessageLength
      | _ => .error .badMessageLength
    else if t = c.tAck then
      match fields with
      | [kh, kl] => .ok (.ack (be16 kh kl))
      | _ => .error .badMessageLength
    else .error .unknownType

/-- Decoding in either space (R70). -/
def decode (sp : Space) (b : Bytes) : Except DecodeError Instr :=
  match sp with
  | .host => decodeCommand b
  | .wire => (decodeMessage b).map Message.toInstr

/-! ### Encoding -/

/-- The message builders `msg_reqn`, `msg_nonce`, `msg_data`, `msg_ack` (R81). -/
def encodeMessage (m : Message) (c : Config := config) : Bytes :=
  match m with
  | .reqn v => [c.tReqn, hi v, lo v]
  | .nonce v i => [c.tNonce, hi v, lo v, hi i, lo i]
  | .data i k b => [c.tData, hi i, lo i, hi k, lo k] ++ b
  | .ack k => [c.tAck, hi k, lo k]

/-- The count byte `n` of a string (R71). -/
def countByte (p : Bytes) : Byte := BitVec.ofNat 8 p.length

/-- The record of a host command (R71, R72), or the bytes of a wire message (R81). -/
def encode : Instr → Bytes
  | .sysReset => [0x00#8]
  | .crcInit => [0x10#8]
  | .crcByte a => [0x11#8, a]
  | .crcRead => [0x12#8]
  | .crcGen p => 0x13#8 :: countByte p :: p
  | .crcChk k p => 0x14#8 :: hi k :: lo k :: countByte p :: p
  | .frmEnc m => 0x20#8 :: countByte m :: m
  | .frmDec f => 0x21#8 :: countByte f :: f
  | .camReq v => [0x30#8, hi v, lo v]
  | .camChk v => [0x31#8, hi v, lo v]
  | .camRd a => [0x32#8, a]
  | .camCnt => [0x33#8]
  | .txSend p => 0x40#8 :: countByte p :: p
  | .txTick => [0x41#8]
  | .txStat => [0x42#8]
  | .rxFrame f => 0x50#8 :: countByte f :: f
  | .reqn c => encodeMessage (.reqn c)
  | .nonce c i => encodeMessage (.nonce c i)
  | .data i k b => encodeMessage (.data i k b)
  | .ack k => encodeMessage (.ack k)

/-! ### Words of spec/opcode_table.json

A row gives the bits of its first byte only. The opcodes of R72 and the type bytes of R76 are disjoint, so the
first byte says which space the word belongs to (log 4). -/

/-- The bytes of a word of `nbits` bits, the least significant byte first. -/
def tableBytes (nbits w : Nat) : Bytes :=
  (List.range (nbits / 8)).map fun j => BitVec.ofNat 8 (w >>> (8 * j))

/-- The string with zero bytes put after it up to length `n`. -/
def padTo (n : Nat) (b : Bytes) : Bytes := b ++ List.replicate (n - b.length) 0#8

/-- Whether a byte is one of the four message types (R76). -/
def isTypeByte (t : Byte) (c : Config := config) : Bool :=
  t = c.tReqn || t = c.tNonce || t = c.tData || t = c.tAck

/-- The space of a table word, by its first byte. -/
def tableSpace (b : Bytes) : Space :=
  if (b.head?.map fun t => isTypeByte t).getD false then .wire else .host

/-- The whole length of the record or message that begins with these bytes, where the bytes not given are
zero: the formats of R71, the shortest legal messages of R77 to R80. -/
def tableLength (b : Bytes) : Nat :=
  match tableSpace b with
  | .wire => if b.head? = some config.tReqn ∨ b.head? = some config.tAck then 3 else 5
  | .host =>
    match (b.head?.bind opcodeLayout) with
    | some (.c0 _) => 1
    | some (.c1 _) => 2
    | some (.c2 _) => 3
    | some (.cv _) => 2 + (b.getD 1 0#8).toNat
    | some (.ck _) => 4 + (b.getD 3 0#8).toNat
    | none => 1

/-- The record or message of a table word, every bit above `nbits` zero. -/
def tableRecord (nbits w : Nat) : Bytes :=
  let b := tableBytes nbits w
  padTo (tableLength b) b

/-- The instruction the decoder reads from an instruction whose bits are `w`, numbered as the opcode table
numbers them. -/
def decodeTableWord (nbits w : Nat) : Option Instr :=
  let b := tableRecord nbits w
  match decode (tableSpace b) b with
  | .ok i => some i
  | .error _ => none

end Sys2Proof
end

