-- ==== Sys2Proof/Machine/State.lean ====
section
/-! DEFINITION. SNPE's state: the registers of spec/10_state.md R36 in one record (R234), and the ports of R38 to
R41, which are the model's own fields (R37 gives the block no state beyond R36; log 1 to 3). -/

namespace Sys2Proof.Machine

/-! ### Registers -/

/-- `PHASE` (R26). The encoding 3 is never produced and is not represented (log 6). -/
inductive Phase where
  | idle
  | awaitingNonce
  | awaitingAck
deriving DecidableEq, Repr

/-- `OUTCOME` (R29). The encoding 3 is never produced and is not represented (log 6). -/
inductive SendOutcome where
  | pending
  | success
  | failure
deriving DecidableEq, Repr

/-- `KIND` (R25): one legal value (log 7). -/
inductive Kind where
  | requestNonce
deriving DecidableEq, Repr

/-- One CAM slot, `SLOT[i]` (R23). -/
structure Slot where
  /-- `VALID`: the slot has been written since reset (R24). -/
  valid : Bool
  /-- `CHAL`: the challenge that created the entry. -/
  chal : Nonce
  /-- `ISS`: the nonce this node issued for it. -/
  iss : Nonce
  /-- `T`: `now` of the operation that created the entry. -/
  t : Time
  /-- `KIND` (R25). -/
  kind : Kind
deriving DecidableEq, Repr

/-- A slot after reset (R23, R251). -/
def Slot.reset : Slot := { valid := false, chal := 0#_, iss := 0#_, t := 0#_, kind := .requestNonce }

/-- Every register of the block (R36). -/
structure Regs where
  /-- `ACC` (R22). -/
  acc : Cksum
  /-- `PHASE` (R26). -/
  phase : Phase
  /-- `OUTCOME` (R29). -/
  outcome : SendOutcome
  /-- `RETRIES_LEFT` (R27). -/
  retriesLeft : BitVec 8
  /-- `NEXT_AT` (R28). -/
  nextAt : Time
  /-- `CHAL` (R30). -/
  chal : Nonce
  /-- `ISSUED` (R31). -/
  issued : Nonce
  /-- `CORR` (R32). -/
  corr : Nonce
  /-- `BODY_LEN` (R33). -/
  bodyLen : BitVec 5
  /-- `BODY[0..23]` (R33). -/
  body : Vector Byte bodyCapacity
  /-- `SLOT[0..4]` (R23). -/
  slots : Vector Slot numSlots
deriving DecidableEq, Repr

/-- The registers after reset (R251). -/
def Regs.reset : Regs :=
  { acc := config.ckInit, phase := .idle, outcome := .pending, retriesLeft := 0#8, nextAt := 0#_,
    chal := 0#_, issued := 0#_, corr := 0#_, bodyLen := 0#5,
    body := Vector.replicate bodyCapacity 0#8, slots := Vector.replicate numSlots Slot.reset }

/-! ### Ports -/

/-- The sixteen status codes of R220. -/
inductive Status where
  | ok
  | eOp
  | eFmt
  | eLen
  | eAlign
  | eSize
  | eFit
  | eCksum
  | eFull
  | eMiss
  | eBusy
  | eType
  | eMsg
  | eIdx
  | eTimeout
  | eNomatch
deriving DecidableEq, Repr

/-- A response record on `RSP`: a status and a result (R38, R73). -/
structure Response where
  status : Status
  result : Bytes
deriving DecidableEq, Repr

/-- One emission (R41). -/
inductive Emission where
  /-- A body on `DLV`. -/
  | dlv (body : Bytes)
  /-- A frame on `TXF`. -/
  | txf (frame : Bytes)
deriving DecidableEq, Repr

/-- One thing the block puts out during a step. -/
inductive Output where
  /-- An emission on `DLV` or `TXF` (R41). -/
  | emission (e : Emission)
  /-- The response on `RSP` (R38). -/
  | response (r : Response)
deriving DecidableEq, Repr

/-- What the host can do to the block. -/
inductive HostInput where
  /-- A command record on `CMD` with the values of `NOW` and `RND` during its operation (R38 to R40). -/
  | command (record : Bytes) (now : Time) (rnd : Nonce)
  /-- The platform's reset input (R250). -/
  | reset
deriving DecidableEq, Repr

/-- The state of the model. -/
structure State where
  /-- The registers (R36). -/
  regs : Regs
  /-- What the host presents, oldest first: the model's own field (log 1). -/
  inputs : List HostInput
  /-- `NOW` during the current operation (R39): the model's own field (log 2). -/
  now : Time
  /-- `RND` during the current operation (R40): the model's own field (log 2). -/
  rnd : Nonce
  /-- What the last step put out, in the order it was put out: the emissions, `DLV` before `TXF`, and after them the
  response (R41, R62). The model's own field (log 3). -/
  outputs : List Output
  /-- Whether the last step took a draw from `RND` (R40): the model's own field (log 14). -/
  drew : Bool
deriving DecidableEq, Repr

/-- The machine right after reset: the registers of R251, nothing emitted, nothing pending; no input is
presented yet (log 1) and the input ports read 0 (log 2). -/
def State.reset : State :=
  { regs := Regs.reset, inputs := [], now := 0#_, rnd := 0#_, outputs := [], drew := false }

/-- The emission of an output, if it is one. -/
def Output.emission? : Output → Option Emission
  | .emission e => some e
  | .response _ => none

/-- The response of an output, if it is one. -/
def Output.response? : Output → Option Response
  | .emission _ => none
  | .response r => some r

/-- What the last step emitted on `DLV` and `TXF`, in order. -/
def State.emitted (s : State) : List Emission := s.outputs.filterMap Output.emission?

/-- The response of the last step on `RSP`. -/
def State.rsp (s : State) : Option Response := s.outputs.findSome? Output.response?

/-! ### Stops -/

/-- Why the machine stops with a fault: never. "No operation traps" (R221), so this type has no constructor and no
step can answer a fault. Safe: nothing is stopped that the spec lets go on. -/
inductive Fault where
deriving DecidableEq, Repr

/-- Why an instruction has no meaning. -/
inductive Refusal where
  /-- Raised by an arm of `exec` for an instruction not modelled yet; no arm does. Safe: it is a stop. -/
  | notModelled (mnemonic : String)
deriving DecidableEq, Repr

end Sys2Proof.Machine
end

