-- ==== Sys2Proof/Machine/Flags.lean ====
section
/-! DEFINITION. SNPE has no condition codes; what stands in their place are the predicates `live` and `due`,
functions of the state and `now` (spec/10_state.md R35), and the codes under which `OUTCOME`, `PHASE`, the status
and the reception events are read back. -/

namespace Sys2Proof.Machine

/-- `live(i, now)` of the slot `e = SLOT[i]` (R140); the subtraction is modulo `2 ^ TS_W`. -/
def live (now : Time) (e : Slot) (c : Config := config) : Bool :=
  e.valid && decide ((now - e.t).toNat < c.counts c.ttl)

/-- `due(now)` for the deadline `nextAt` (R160): the first half of the counter's range from the deadline on; the
subtraction is modulo `2 ^ TS_W`. -/
def due (now nextAt : Time) (c : Config := config) : Bool := decide ((now - nextAt).toNat < 2 ^ (c.tsW - 1))

/-- The encoding of `PHASE` (R26). -/
def Phase.code : Phase → Byte
  | .idle => 0#8
  | .awaitingNonce => 1#8
  | .awaitingAck => 2#8

/-- The encoding of `OUTCOME` (R29). -/
def SendOutcome.code : SendOutcome → Byte
  | .pending => 0#8
  | .success => 1#8
  | .failure => 2#8

/-- The `OUTCOME` that a result byte of `TX.STAT` reports (R29, R164); the other values are never produced. -/
def SendOutcome.ofCode (b : Byte) : Option SendOutcome :=
  [SendOutcome.pending, .success, .failure].find? fun o => o.code = b

/-- The status byte (R220). -/
def Status.code : Status → Byte
  | .ok => 0x00#8
  | .eOp => 0x01#8
  | .eFmt => 0x02#8
  | .eLen => 0x03#8
  | .eAlign => 0x04#8
  | .eSize => 0x05#8
  | .eFit => 0x06#8
  | .eCksum => 0x07#8
  | .eFull => 0x08#8
  | .eMiss => 0x09#8
  | .eBusy => 0x0A#8
  | .eType => 0x0B#8
  | .eMsg => 0x0C#8
  | .eIdx => 0x0D#8
  | .eTimeout => 0x0E#8
  | .eNomatch => 0x0F#8

/-- The event bytes an accepted `RX.FRAME` returns (R191). -/
def evNonceReused : Byte := 1#8
/-- `EV_NONCE_NEW` (R191). -/
def evNonceNew : Byte := 2#8
/-- `EV_DELIVERED` (R191). -/
def evDelivered : Byte := 3#8
/-- `EV_PHASE2` (R191). -/
def evPhase2 : Byte := 4#8
/-- `EV_DONE` (R191). -/
def evDone : Byte := 5#8

/-- The result byte of `TX.TICK` in `Idle` (R163). -/
def tickIdle : Byte := 0#8
/-- The result byte of `TX.TICK` before the deadline (R163). -/
def tickWaiting : Byte := 1#8
/-- The result byte of `TX.TICK` that retransmits (R163). -/
def tickRetransmitted : Byte := 2#8

/-- A one-bit result as a byte. -/
def flagByte (b : Bool) : Byte := if b then 1#8 else 0#8

end Sys2Proof.Machine
end

