-- ==== Sys2Proof/Machine/Operands.lean ====
section
/-! DEFINITION. The operand and result forms: the response record as bytes, the body store as it is written and
read, a slot as `CAM.RD` shows it, and the status a decoding error answers. -/

namespace Sys2Proof.Machine

/-- The response record on `RSP` as bytes: the status byte, then the result (R73). -/
def Response.bytes (r : Response) : Bytes := r.status.code :: r.result

/-- `BODY[k] <- p[k]` for `0 <= k < len(p)`; the bytes after keep their old value (R33, R162). -/
def writeBody (p : Bytes) (body : Vector Byte bodyCapacity) : Vector Byte bodyCapacity :=
  Vector.ofFn fun k => p.getD k.val body[k]

/-- `BODY[0 .. BODY_LEN-1]` (R33). For the values 25 to 31 of `BODY_LEN`, which no run reaches, it is the whole
store (log 9). -/
def Regs.storedBody (r : Regs) : Bytes := r.body.toList.take r.bodyLen.toNat

/-- The ten result bytes of `CAM.RD` for a slot (R145). -/
def slotReadback (now : Time) (e : Slot) (c : Config := config) : Bytes :=
  [flagByte e.valid, flagByte (live now e c), hi e.chal, lo e.chal, hi e.iss, lo e.iss] ++ be32 e.t

end Sys2Proof.Machine

namespace Sys2Proof

/-- The status that answers a string that is no instruction (R84, R211, R212). -/
def DecodeError.status : DecodeError → Machine.Status
  | .emptyRecord => .eFmt
  | .illegalOpcode => .eOp
  | .malformedRecord => .eFmt
  | .emptyMessage => .eType
  | .unknownType => .eType
  | .badMessageLength => .eMsg

end Sys2Proof
end

