-- ==== Sys2Proof/Machine/Ops.lean ====
section
/-! DEFINITION. The shared operations: how an operation ends, the checksum (spec/40_crc.md R100, R101), the frame
codec (spec/41_frame.md R120, R121), the CAM (spec/42_cam.md R141, R142), the session's first and later
transmissions (spec/43_retry.md R162, R163, R165), and taking the host's next input. -/

namespace Sys2Proof.Machine

/-! ### How an operation ends

SNPE takes no exception: "There is no trap entry: nothing is saved, no mode or mask changes, control goes nowhere"
(R228). Where a processor would take one, an operation ends with a status (R220, R221). -/

/-- Everything an operation does: the registers after it, its response and its emissions, and whether it took a
draw (R10 `return (status, result)`, `emit`). -/
structure Effect where
  regs : Regs
  status : Status
  result : Bytes := []
  emitted : List Emission := []
  drew : Bool := false

/-- What an operation puts out: its emissions in their order, and then its response (R62). -/
def Effect.outputs (e : Effect) : List Output := e.emitted.map .emission ++ [.response ⟨e.status, e.result⟩]

/-- The state after an operation with this effect: the registers, and the outputs. Nothing of the previous
operation's outputs stays (R41, R223); the input ports are not written. -/
def State.finish (s : State) (e : Effect) : State :=
  { s with regs := e.regs, outputs := e.outputs, drew := e.drew }

/-- The outcome of an operation: it always ends, and the next command is accepted (R221). -/
def State.complete (s : State) (e : Effect) : Host.Outcome State Fault Refusal := .next (s.finish e)

/-- An operation that ends with a status other than `OK` and changes nothing, emits nothing and takes no draw
(R16, R222). -/
def State.reject (s : State) (st : Status) : Host.Outcome State Fault Refusal :=
  s.complete { regs := s.regs, status := st }

/-! ### Checksum -/

/-- `ck_step(acc, b)` (R100). -/
def ckStep {w : Nat} (acc : BitVec w) (b : Byte) : BitVec w :=
  let t := if acc.msb then (acc <<< 1) ||| 1#w else acc <<< 1
  t ^^^ b.setWidth w

/-- `cksum(s)` (R101). -/
def cksum (s : Bytes) (c : Config := config) : BitVec c.ckW := s.foldl ckStep c.ckInit

/-- The checksum of a frame with payload `p`: over the length byte and the payload (R101). -/
def payloadCksum (p : Bytes) (c : Config := config) : BitVec c.ckW := cksum (countByte p :: p) c

/-! ### Frame codec -/

/-- The size of the frame that carries `n` payload bytes (R75, R120). -/
def frameSize (n : Nat) (c : Config := config) : Nat := if n ≤ c.smallMax then c.block else c.maxFrame

/-- `frame_encode(m)`, for `m` of at most `MAX_PAYLOAD` = 29 bytes (R120). -/
def frameEncode (m : Bytes) (c : Config := config) : Bytes :=
  let k := payloadCksum m c
  [hi k, lo k, countByte m] ++ m ++ List.replicate (frameSize m.length c - 3 - m.length) c.pad

/-- `frame_decode(f)`: its five checks in order (R121). -/
def frameDecode (f : Bytes) (c : Config := config) : Except Status Bytes :=
  if f.length % c.block ≠ 0 then .error .eAlign
  else if f.length = 0 ∨ c.maxFrame < f.length then .error .eSize
  else
    let n := (f.getD 2 0#8).toNat
    if c.maxPayload < n then .error .eLen
    else if f.length < 3 + n then .error .eFit
    else if (cksum ((f.drop 2).take (1 + n)) c).toNat ≠ (be16 (f.getD 0 0#8) (f.getD 1 0#8)).toNat then
      .error .eCksum
    else .ok ((f.drop 3).take n)

/-- The emission of a message on `TXF` in a frame (R81, R120). -/
def txMessage (m : Message) (c : Config := config) : Emission := .txf (frameEncode (encodeMessage m c) c)

/-! ### CAM -/

/-- The lowest slot index that meets a test; both scans go from index 0 upward (R141, R142). -/
def firstSlot (test : Slot → Bool) (slots : Vector Slot numSlots) : Option (Fin numSlots) :=
  (List.finRange numSlots).find? fun i => test slots[i]

/-- What `cam_request` returns (R141). -/
inductive CamReply where
  | reused (iss : Nonce) (i : Fin numSlots)
  | allocated (iss : Nonce) (i : Fin numSlots)
  | full
deriving DecidableEq, Repr

/-- `cam_request(v, now, rnd)`: the reply and the slots after it (R141). -/
def camRequest (slots : Vector Slot numSlots) (v : Nonce) (now : Time) (rnd : Nonce) (c : Config := config) :
    CamReply × Vector Slot numSlots :=
  match firstSlot (fun e => live now e c && decide (e.chal = v)) slots with
  | some i => (.reused slots[i].iss i, slots)
  | none =>
    match firstSlot (fun e => !live now e c) slots with
    | some i =>
      (.allocated rnd i,
        slots.set i { valid := true, chal := v, iss := rnd, t := now, kind := .requestNonce })
    | none => (.full, slots)

/-- `cam_check(v, now)`: the slot of a hit, `none` for a miss (R142). -/
def camCheck (slots : Vector Slot numSlots) (v : Nonce) (now : Time) (c : Config := config) :
    Option (Fin numSlots) :=
  firstSlot (fun e => live now e c && decide (e.kind = .requestNonce) && decide (e.iss = v)) slots

/-- The number of live slots (R146). -/
def liveCount (slots : Vector Slot numSlots) (now : Time) (c : Config := config) : Nat :=
  slots.toList.countP fun e => live now e c

/-- A slot index as a result byte (R143, R144). -/
def slotByte (i : Fin numSlots) : Byte := BitVec.ofNat 8 i.val

/-! ### Send session -/

/-- The deadline after a transmission at `now` (R28). -/
def nextDeadline (now : Time) (c : Config := config) : Time :=
  now + BitVec.ofNat config.tsW (c.counts c.sendInterval)

/-- The budget and the deadline right after the first transmission of a phase (R27, R28). -/
def Regs.startPhase (r : Regs) (now : Time) (c : Config := config) : Regs :=
  { r with retriesLeft := BitVec.ofNat 8 (c.retries - 1), nextAt := nextDeadline now c }

/-- The budget and the deadline right after a retransmission (R163). -/
def Regs.countRetransmission (r : Regs) (now : Time) (c : Config := config) : Regs :=
  { r with retriesLeft := r.retriesLeft - 1#8, nextAt := nextDeadline now c }

/-- The `REQN` of the session (R162, R163). -/
def Regs.sessionReqn (r : Regs) : Message := .reqn r.chal

/-- The `DATA` of the session (R163, R165). -/
def Regs.sessionData (r : Regs) : Message := .data r.issued r.corr r.storedBody

/-! ### The host's next input -/

/-- What the block is given at the start of a step. -/
inductive Fetched where
  /-- No input is presented. -/
  | nothing
  /-- The reset input is active (R250). -/
  | reset
  /-- A record that is no command (R211, R212). -/
  | badRecord (e : DecodeError)
  /-- A command. -/
  | command (i : Instr)
deriving DecidableEq, Repr

/-- The next input and the state once it is taken from the port: the rest of the inputs wait, and the values of
`NOW` and `RND` presented with a record stand on their ports during its operation (R38 to R40). -/
def State.fetch (s : State) : Fetched × State :=
  match s.inputs with
  | [] => (.nothing, s)
  | .reset :: rest => (.reset, { s with inputs := rest })
  | .command record now rnd :: rest =>
    let s' := { s with inputs := rest, now := now, rnd := rnd }
    match decodeCommand record with
    | .ok i => (.command i, s')
    | .error e => (.badRecord e, s')

/-- A step in which the host presents nothing: the registers keep their values and the output ports carry
nothing (R37, R254 point 6). -/
def State.idle (s : State) : State := { s with outputs := [], drew := false }

/-- The reset input: every register to its reset value, nothing emitted, no response (R250, R251). -/
def State.hardReset (s : State) : State := { s with regs := Regs.reset, outputs := [], drew := false }

/-- The command record in which the host would present the string of a table word: itself, or, for a wire
message, an `RX.FRAME` with the frame that carries it (R70). -/
def presentedRecord (b : Bytes) : Bytes :=
  match tableSpace b with
  | .host => b
  | .wire => encode (.rxFrame (frameEncode b))

end Sys2Proof.Machine
end

