-- ==== Sys2Proof/Machine/Cam.lean ====
section
/-! DEFINITION. The CAM family (spec/42_cam.md R143 to R146). -/

namespace Sys2Proof.Machine

/-- `CAM.REQ v` (R143). -/
def execCamReq (v : Nonce) (s : State) : Host.Outcome State Fault Refusal :=
  match camRequest s.regs.slots v s.now s.rnd with
  | (.full, _) => s.reject .eFull
  | (.reused iss i, _) =>
    s.complete { regs := s.regs, status := .ok, result := [0#8, hi iss, lo iss, slotByte i] }
  | (.allocated iss i, slots) =>
    s.complete
      { regs := { s.regs with slots := slots }, status := .ok,
        result := [1#8, hi iss, lo iss, slotByte i], drew := true }

/-- `CAM.CHK v` (R144). -/
def execCamChk (v : Nonce) (s : State) : Host.Outcome State Fault Refusal :=
  match camCheck s.regs.slots v s.now with
  | none => s.reject .eMiss
  | some i => s.complete { regs := s.regs, status := .ok, result := [slotByte i] }

/-- `CAM.RD a` (R145). -/
def execCamRd (a : Byte) (s : State) : Host.Outcome State Fault Refusal :=
  if h : a.toNat < numSlots then
    s.complete { regs := s.regs, status := .ok, result := slotReadback s.now s.regs.slots[a.toNat] }
  else s.reject .eIdx

/-- `CAM.CNT` (R146). -/
def execCamCnt (s : State) : Host.Outcome State Fault Refusal :=
  s.complete
    { regs := s.regs, status := .ok, result := [BitVec.ofNat 8 (liveCount s.regs.slots s.now)] }

end Sys2Proof.Machine
end

