-- ==== Sys2Proof/Machine/Crc.lean ====
section
/-! DEFINITION. The CRC family (spec/40_crc.md R104 to R108). Only these commands and reset touch `ACC` (R111). -/

namespace Sys2Proof.Machine

/-- `CRC.INIT` (R104). -/
def execCrcInit (s : State) : Host.Outcome State Fault Refusal :=
  s.complete { regs := { s.regs with acc := config.ckInit }, status := .ok }

/-- `CRC.BYTE a` (R105). -/
def execCrcByte (a : Byte) (s : State) : Host.Outcome State Fault Refusal :=
  s.complete { regs := { s.regs with acc := ckStep s.regs.acc a }, status := .ok }

/-- `CRC.READ` (R106). -/
def execCrcRead (s : State) : Host.Outcome State Fault Refusal :=
  s.complete { regs := s.regs, status := .ok, result := [hi s.regs.acc, lo s.regs.acc] }

/-- `CRC.GEN n, s` (R107). -/
def execCrcGen (p : Bytes) (s : State) : Host.Outcome State Fault Refusal :=
  if config.maxPayload < p.length then s.reject .eLen
  else
    let c := payloadCksum p
    s.complete { regs := { s.regs with acc := c }, status := .ok, result := [hi c, lo c] }

/-- `CRC.CHK k, n, s` (R108). `ACC` is written and the recomputed checksum returned on both paths. -/
def execCrcChk (k : Cksum) (p : Bytes) (s : State) : Host.Outcome State Fault Refusal :=
  if config.maxPayload < p.length then s.reject .eLen
  else
    let c := payloadCksum p
    s.complete
      { regs := { s.regs with acc := c }, status := if c = k then .ok else .eCksum, result := [hi c, lo c] }

end Sys2Proof.Machine
end

