-- ==== Sys2Proof/Machine/Frm.lean ====
section
/-! DEFINITION. The FRM family (spec/41_frame.md R122, R123): no register is written, nothing is emitted. -/

namespace Sys2Proof.Machine

/-- `FRM.ENC n, s` (R122). -/
def execFrmEnc (m : Bytes) (s : State) : Host.Outcome State Fault Refusal :=
  if config.maxPayload < m.length then s.reject .eLen
  else s.complete { regs := s.regs, status := .ok, result := frameEncode m }

/-- `FRM.DEC n, s` (R123). -/
def execFrmDec (f : Bytes) (s : State) : Host.Outcome State Fault Refusal :=
  match frameDecode f with
  | .error st => s.reject st
  | .ok m => s.complete { regs := s.regs, status := .ok, result := countByte m :: m }

end Sys2Proof.Machine
end

