-- ==== Sys2Proof/Machine/Tx.lean ====
section
/-! DEFINITION. The send session: the TX family (spec/43_retry.md R162 to R164) and the sender's wire messages
(R165, R166). -/

namespace Sys2Proof.Machine

/-- `TX.SEND n, s` (R162): the busy test first, then the length test. -/
def execTxSend (p : Bytes) (s : State) : Host.Outcome State Fault Refusal :=
  if s.regs.phase ≠ .idle then s.reject .eBusy
  else if config.maxBody < p.length then
    s.complete { regs := { s.regs with outcome := .failure }, status := .eLen }
  else
    let r : Regs :=
      { s.regs with
        bodyLen := BitVec.ofNat 5 p.length, body := writeBody p s.regs.body, chal := s.rnd,
        phase := .awaitingNonce, outcome := .pending }
    s.complete
      { regs := r.startPhase s.now, status := .ok, emitted := [txMessage r.sessionReqn], drew := true }

/-- `TX.TICK` (R163): idle, then not due, then timeout, then a retransmission. -/
def execTxTick (s : State) : Host.Outcome State Fault Refusal :=
  match s.regs.phase with
  | .idle => s.complete { regs := s.regs, status := .ok, result := [tickIdle] }
  | phase =>
    if !due s.now s.regs.nextAt then s.complete { regs := s.regs, status := .ok, result := [tickWaiting] }
    else if s.regs.retriesLeft = 0#8 then
      s.complete { regs := { s.regs with phase := .idle, outcome := .failure }, status := .eTimeout }
    else
      s.complete
        { regs := s.regs.countRetransmission s.now, status := .ok, result := [tickRetransmitted],
          emitted := [txMessage (if phase = .awaitingNonce then s.regs.sessionReqn else s.regs.sessionData)] }

/-- `TX.STAT` (R164). -/
def execTxStat (s : State) : Host.Outcome State Fault Refusal :=
  s.complete
    { regs := s.regs, status := .ok, result := [s.regs.phase.code, s.regs.outcome.code, s.regs.retriesLeft] }

/-- Reception of `NONCE c, i` (R165). -/
def execNonce (c i : Nonce) (s : State) : Host.Outcome State Fault Refusal :=
  if s.regs.phase = .awaitingNonce ∧ c = s.regs.chal then
    let r : Regs := { s.regs with issued := i, corr := s.rnd, phase := .awaitingAck }
    s.complete
      { regs := r.startPhase s.now, status := .ok, result := [evPhase2],
        emitted := [txMessage r.sessionData], drew := true }
  else s.reject .eNomatch

/-- Reception of `ACK k` (R166). -/
def execAck (k : Nonce) (s : State) : Host.Outcome State Fault Refusal :=
  if s.regs.phase = .awaitingAck ∧ k = s.regs.corr then
    s.complete
      { regs := { s.regs with phase := .idle, outcome := .success }, status := .ok, result := [evDone] }
  else s.reject .eNomatch

end Sys2Proof.Machine
end

