-- ==== Sys2Proof/Machine/Rx.lean ====
section
/-! DEFINITION. Reception: `RX.FRAME` (spec/44_rx_dispatch.md R191), the dispatch by message type (R190), and the
responder's wire messages (R192, R193). -/

namespace Sys2Proof.Machine

/-- Reception of `REQN c` (R192): a reply on both the new and the reused path. -/
def execReqn (c : Nonce) (s : State) : Host.Outcome State Fault Refusal :=
  match camRequest s.regs.slots c s.now s.rnd with
  | (.full, _) => s.reject .eFull
  | (.reused iss _, _) =>
    s.complete
      { regs := s.regs, status := .ok, result := [evNonceReused], emitted := [txMessage (.nonce c iss)] }
  | (.allocated iss _, slots) =>
    s.complete
      { regs := { s.regs with slots := slots }, status := .ok, result := [evNonceNew],
        emitted := [txMessage (.nonce c iss)], drew := true }

/-- Reception of `DATA i, k, b` (R193): the delivery, then the acknowledgment. -/
def execData (i k : Nonce) (b : Bytes) (s : State) : Host.Outcome State Fault Refusal :=
  match camCheck s.regs.slots i s.now with
  | none => s.reject .eMiss
  | some _ =>
    s.complete
      { regs := s.regs, status := .ok, result := [evDelivered], emitted := [.dlv b, txMessage (.ack k)] }

/-- `dispatch(m, now, rnd)` (R190). It does not depend on `PHASE`. -/
def dispatch (m : Bytes) (s : State) : Host.Outcome State Fault Refusal :=
  match decodeMessage m with
  | .error e => s.reject e.status
  | .ok (.reqn c) => execReqn c s
  | .ok (.nonce c i) => execNonce c i s
  | .ok (.data i k b) => execData i k b s
  | .ok (.ack k) => execAck k s

/-- `RX.FRAME n, s` (R191). -/
def execRxFrame (f : Bytes) (s : State) : Host.Outcome State Fault Refusal :=
  match frameDecode f with
  | .error st => s.reject st
  | .ok m => dispatch m s

end Sys2Proof.Machine
end

