-- ==== Sys2Proof/Machine/Sys.lean ====
section
/-! DEFINITION. The SYS family (spec/45_system.md R210) and the answer to a record that is no command (R211,
R212). -/

namespace Sys2Proof.Machine

/-- `SYS.RESET` (R210): every register to its reset value, with a response. -/
def execSysReset (s : State) : Host.Outcome State Fault Refusal :=
  s.complete { regs := Regs.reset, status := .ok }

/-- A record that is no command: `E_OP` or `E_FMT`, nothing changes, nothing is emitted, nothing is sampled
(R211, R212). -/
def execBadRecord (e : DecodeError) (s : State) : Host.Outcome State Fault Refusal := s.reject e.status

end Sys2Proof.Machine
end

