-- ==== Sys2Proof/Machine/Dispatch.lean ====
section
/-! DEFINITION. The meaning of every instruction, one arm per row of spec/opcode_table.json, in its order. -/

namespace Sys2Proof.Machine

-- One arm per constructor of Instr.
def exec (i : Instr) (s : State) : Host.Outcome State Fault Refusal :=
  match i with
  | .sysReset => Sys2Proof.Machine.execSysReset s
  | .crcInit => Sys2Proof.Machine.execCrcInit s
  | .crcByte a => Sys2Proof.Machine.execCrcByte a s
  | .crcRead => Sys2Proof.Machine.execCrcRead s
  | .crcGen p => Sys2Proof.Machine.execCrcGen p s
  | .crcChk k p => Sys2Proof.Machine.execCrcChk k p s
  | .frmEnc m => Sys2Proof.Machine.execFrmEnc m s
  | .frmDec f => Sys2Proof.Machine.execFrmDec f s
  | .camReq v => Sys2Proof.Machine.execCamReq v s
  | .camChk v => Sys2Proof.Machine.execCamChk v s
  | .camRd a => Sys2Proof.Machine.execCamRd a s
  | .camCnt => Sys2Proof.Machine.execCamCnt s
  | .txSend p => Sys2Proof.Machine.execTxSend p s
  | .txTick => Sys2Proof.Machine.execTxTick s
  | .txStat => Sys2Proof.Machine.execTxStat s
  | .rxFrame f => Sys2Proof.Machine.execRxFrame f s
  | .reqn c => Sys2Proof.Machine.execReqn c s
  | .nonce c n => Sys2Proof.Machine.execNonce c n s
  | .data n k b => Sys2Proof.Machine.execData n k b s
  | .ack k => Sys2Proof.Machine.execAck k s

end Sys2Proof.Machine
end

