-- ==== Sys2Proof/Machine/Step.lean ====
section
/-! DEFINITION. One step: the host's next input is taken and its operation performed whole (spec/20_memory.md R56,
R59), and the form in which a table word is placed as the next input. -/

namespace Sys2Proof.Machine

/-- One step of the machine. -/
def step (s : State) : Host.Outcome State Fault Refusal :=
  match s.fetch with
  | (.nothing, s') => .next s'.idle
  | (.reset, s') => .next s'.hardReset
  | (.badRecord e, s') => execBadRecord e s'
  | (.command i, s') => exec i s'

/-- The state with the instruction of a table word presented as the next command, with the values that stand on
`NOW` and `RND` (log 1, log 4). -/
def State.withFetchWord (s : State) (nbits w : Nat) : State :=
  { s with inputs := .command (presentedRecord (tableRecord nbits w)) s.now s.rnd :: s.inputs }

end Sys2Proof.Machine
end

