-- ==== Sys2Proof/Machine/Pseudo.lean ====
section
/-! DEFINITION. The pseudo-operations of spec/30_encoding.md R88: the source's software operations as sequences of
commands that a host presents. No step is added by them. -/

namespace Sys2Proof.Machine

/-- A command as the host presents it (R71, R87). -/
def HostInput.ofInstr (i : Instr) (now : Time) (rnd : Nonce) : HostInput := .command (encode i) now rnd

/-- `ENCODE m` (R88). -/
def pseudoEncode (m : Bytes) : List Instr := [.frmEnc m]

/-- `DECODE f` (R88). -/
def pseudoDecode (f : Bytes) : List Instr := [.frmDec f]

/-- `CHECKSUM n, p` with `n = len(p)` (R88). -/
def pseudoChecksum (p : Bytes) : List Instr := [.crcGen p]

/-- `VERIFY k, n, p` with `n = len(p)` (R88). -/
def pseudoVerify (k : Cksum) (p : Bytes) : List Instr := [.crcChk k p]

/-- `ON_FRAME_RECEIVED f` (R88). -/
def pseudoOnFrameReceived (f : Bytes) : List Instr := [.rxFrame f]

/-- A frame the radio holds, decrypted, with the `now` and `rnd` at which the host presents it. -/
structure ReceivedFrame where
  frame : Bytes
  now : Time
  rnd : Nonce
deriving DecidableEq, Repr

/-- `UPDATE`: every received frame, oldest first, then `TX.TICK` at `now` (R88, R227). -/
def pseudoUpdate (frames : List ReceivedFrame) (now : Time) (rnd : Nonce) : List HostInput :=
  frames.map (fun x => HostInput.ofInstr (.rxFrame x.frame) x.now x.rnd) ++ [HostInput.ofInstr .txTick now rnd]

/-- The machine after the host has presented these inputs one at a time, each after the response to the one
before (R38, R59). -/
def feed : List HostInput → State → Host.Outcome State Fault Refusal
  | [], s => .next s
  | x :: rest, s =>
    match step { s with inputs := [x] } with
    | .next t => feed rest t
    | .fault r => .fault r
    | .refused r => .refused r

/-- What the environment supplies for one turn of the loop of `SEND.BLOCKING`: the frames the radio holds, and the
values on `NOW` and `RND` beside the `TX.TICK` that ends the `UPDATE` and beside the `TX.STAT` after it. -/
structure PollTurn where
  frames : List ReceivedFrame
  tickNow : Time
  tickRnd : Nonce
  statNow : Time
  statRnd : Nonce
deriving DecidableEq, Repr

/-- The commands of one turn of the loop: an `UPDATE`, and the `TX.STAT` whose report ends the loop (R88). -/
def PollTurn.commands (u : PollTurn) : List HostInput :=
  pseudoUpdate u.frames u.tickNow u.tickRnd ++ [HostInput.ofInstr .txStat u.statNow u.statRnd]

/-- The loop of `SEND.BLOCKING`: `UPDATE` until `TX.STAT` reports `PHASE` = `Idle`, and then the `OUTCOME` it
reports (R88, R164); `none` if the host stops issuing updates before that (R254 point 6, log 16). -/
def pollUntilIdle : List PollTurn → State → Option SendOutcome
  | [], _ => none
  | u :: later, s =>
    match feed u.commands s with
    | .next t =>
      match t.rsp with
      | some ⟨.ok, [phase, outcome, _]⟩ =>
        if phase = Phase.idle.code then SendOutcome.ofCode outcome else pollUntilIdle later t
      | _ => none
    | .fault _ => none
    | .refused _ => none

/-- `SEND.BLOCKING [p]` over the turns of the loop that the host makes (R88); `none` where R88 gives no result: the
host stops issuing updates, or `TX.SEND` answers neither `OK` nor `E_LEN` (log 16). -/
def pseudoSendBlocking (p : Bytes) (now : Time) (rnd : Nonce) (turns : List PollTurn) (s : State) :
    Option SendOutcome :=
  match feed [HostInput.ofInstr (.txSend p) now rnd] s with
  | .next t =>
    match t.rsp with
    | some ⟨.ok, _⟩ => pollUntilIdle turns t
    | some ⟨.eLen, _⟩ => some .failure
    | _ => none
  | .fault _ => none
  | .refused _ => none

end Sys2Proof.Machine
end

