-- ==== Sys2Proof/Safety.lean ====
section
/-! DEFINITION. The terms in which claims are stated: what holds of the registers in every reachable state
(spec/10_state.md R34), what an operation may emit (R41), which message an instruction carries, and runs of
instructions. -/

namespace Sys2Proof.Machine

/-- The invariants (b), (c), (d) and (f) of R34; (a) holds by the types of `PHASE` and `OUTCOME` (log 6), and (e)
is `LiveChallengesDistinct`. -/
def Regs.Consistent (r : Regs) : Prop :=
  (r.phase ≠ .idle → r.outcome = .pending) ∧
  r.retriesLeft.toNat ≤ config.retries - 1 ∧
  r.bodyLen.toNat ≤ config.maxBody ∧
  ∀ i : Fin numSlots, r.slots[i].valid = false →
    r.slots[i].chal = 0#_ ∧ r.slots[i].iss = 0#_ ∧ r.slots[i].t = 0#_

/-- R34 (e), R149: two slots live at the same `now` hold different challenges. -/
def LiveChallengesDistinct (now : Time) (slots : Vector Slot numSlots) : Prop :=
  ∀ i j : Fin numSlots, i ≠ j → live now slots[i] = true → live now slots[j] = true →
    slots[i].chal ≠ slots[j].chal

/-- A table whose entries were made at times up to `now` of a clock that has not wrapped, entries of one challenge
at least `TTL` apart: what rules out the aliasing of R257 (log 11). -/
def TableOrdered (now : Time) (slots : Vector Slot numSlots) : Prop :=
  (∀ i : Fin numSlots, slots[i].valid = true → slots[i].t.toNat ≤ now.toNat) ∧
  ∀ i j : Fin numSlots, i ≠ j → slots[i].valid = true → slots[j].valid = true →
    slots[i].chal = slots[j].chal →
    slots[i].t.toNat + config.ttl ≤ slots[j].t.toNat ∨ slots[j].t.toNat + config.ttl ≤ slots[i].t.toNat

/-- A frame has the size of one or two cipher blocks (R55). -/
def FrameSized (f : Bytes) : Prop := f.length = 16 ∨ f.length = 32

/-- What one operation may emit (R41): nothing, one frame, or one body of at most 24 bytes and then one frame. -/
def EmissionsAllowed (em : List Emission) : Prop :=
  em = [] ∨ (∃ f, em = [.txf f] ∧ FrameSized f) ∨
  ∃ b f, em = [.dlv b, .txf f] ∧ b.length ≤ 24 ∧ FrameSized f

/-- The message an `RX.FRAME` with this operand carries, if its frame decodes to one (R121, R190). -/
def carriedMessage (f : Bytes) : Option Message :=
  match frameDecode f with
  | .error _ => none
  | .ok m =>
    match decodeMessage m with
    | .error _ => none
    | .ok msg => some msg

/-- The instruction is the reception of this message, alone or inside an `RX.FRAME` (R3, R70). -/
def Receives (i : Instr) (msg : Message) : Prop :=
  i = msg.toInstr ∨ ∃ f, i = .rxFrame f ∧ carriedMessage f = some msg

/-- Instructions performed one after another with the same `NOW` and `RND` on the ports. -/
def execAll : List Instr → State → Host.Outcome State Fault Refusal
  | [], s => .next s
  | i :: rest, s =>
    match exec i s with
    | .next t => execAll rest t
    | .fault r => .fault r
    | .refused r => .refused r

/-- Everything the block puts out while the host presents these inputs one at a time: the outputs of each step, one
step after another (R62). -/
def outputTrace : List HostInput → State → List Output
  | [], _ => []
  | x :: rest, s =>
    match step { s with inputs := [x] } with
    | .next t => t.outputs ++ outputTrace rest t
    | .fault _ => []
    | .refused _ => []

/-- The message the session transmits in its phase: the `REQN` in phase 1, the `DATA` in phase 2 (R163, R169). -/
def Regs.sessionMessage (r : Regs) : Message :=
  match r.phase with
  | .idle => r.sessionReqn
  | .awaitingNonce => r.sessionReqn
  | .awaitingAck => r.sessionData

/-- `n` ticks, the first one `SEND_INTERVAL` after `t0` and each later one `SEND_INTERVAL` after the one before: a
host that ticks exactly at each deadline (R168). -/
def deadlineTicks (t0 : Time) (rnd : Nonce) (n : Nat) : List HostInput :=
  (List.range n).map fun k => .command [0x41#8] (t0 + BitVec.ofNat config.tsW (50 * (k + 1))) rnd

/-- The operations that R42 lets read or write `ACC`. -/
def touchesAcc : Instr → Bool
  | .sysReset => true
  | .crcInit => true
  | .crcByte _ => true
  | .crcRead => true
  | .crcGen _ => true
  | .crcChk _ _ => true
  | .frmEnc _ => false
  | .frmDec _ => false
  | .camReq _ => false
  | .camChk _ => false
  | .camRd _ => false
  | .camCnt => false
  | .txSend _ => false
  | .txTick => false
  | .txStat => false
  | .rxFrame _ => false
  | .reqn _ => false
  | .nonce _ _ => false
  | .data _ _ _ => false
  | .ack _ => false

/-- The operations that R42 marks as sampling `now`; `RX.FRAME` is among them for the messages it may carry. -/
def readsNow : Instr → Bool
  | .sysReset => false
  | .crcInit => false
  | .crcByte _ => false
  | .crcRead => false
  | .crcGen _ => false
  | .crcChk _ _ => false
  | .frmEnc _ => false
  | .frmDec _ => false
  | .camReq _ => true
  | .camChk _ => true
  | .camRd _ => true
  | .camCnt => true
  | .txSend _ => true
  | .txTick => true
  | .txStat => false
  | .rxFrame _ => true
  | .reqn _ => true
  | .nonce _ _ => true
  | .data _ _ _ => true
  | .ack _ => false

/-- The statuses that the table of R220 lets an operation return once its record is a command. -/
def mayAnswer : Instr → List Status
  | .sysReset => [.ok]
  | .crcInit => [.ok]
  | .crcByte _ => [.ok]
  | .crcRead => [.ok]
  | .crcGen _ => [.ok, .eLen]
  | .crcChk _ _ => [.ok, .eLen, .eCksum]
  | .frmEnc _ => [.ok, .eLen]
  | .frmDec _ => [.ok, .eLen, .eAlign, .eSize, .eFit, .eCksum]
  | .camReq _ => [.ok, .eFull]
  | .camChk _ => [.ok, .eMiss]
  | .camRd _ => [.ok, .eIdx]
  | .camCnt => [.ok]
  | .txSend _ => [.ok, .eLen, .eBusy]
  | .txTick => [.ok, .eTimeout]
  | .txStat => [.ok]
  | .rxFrame _ =>
    [.ok, .eLen, .eAlign, .eSize, .eFit, .eCksum, .eFull, .eMiss, .eType, .eMsg, .eNomatch]
  | .reqn _ => [.ok, .eFull]
  | .nonce _ _ => [.ok, .eNomatch]
  | .data _ _ _ => [.ok, .eMiss]
  | .ack _ => [.ok, .eNomatch]

/-- The status of the last response. -/
def State.status (s : State) : Option Status := s.rsp.map Response.status

/-- The state after an outcome, if it is a next state. -/
def stateAfter (o : Host.Outcome State Fault Refusal) : Option State :=
  match o with
  | .next t => some t
  | .fault _ => none
  | .refused _ => none

end Sys2Proof.Machine
end

