-- ==== Sys2Proof/Certificates/Slice0/Obligations.lean ====
section
/-! DEFINITION. The statements for the provers, from the numbered rules of spec/, family by family. Every
statement about an instruction gives its whole next state, so it is also the instruction's frame: a field the
right side does not name is unchanged. -/

open Sys2Proof Sys2Proof.Machine

/-! ### Steps and the command check -/

/-- Model's own form (log 3): ending an operation writes the registers and the outputs, the emissions before the
response, and nothing else; no output of an earlier operation stays. -/
def Obligations.FinishWritesRegistersAndOutputsOnly : Prop :=
  ∀ (s : State) (e : Effect),
    s.finish e =
      { regs := e.regs, inputs := s.inputs, now := s.now, rnd := s.rnd,
        outputs := e.emitted.map .emission ++ [.response ⟨e.status, e.result⟩], drew := e.drew }

/-- A step runs the decoded instruction: the record at the head of the host's inputs is taken, the values of `NOW`
and `RND` beside it stand on the ports, and the step is `exec` of the instruction the record decodes to. -/
def Obligations.StepRunsTheDecodedCommand : Prop :=
  ∀ (s : State) (record : Bytes) (now : Time) (rnd : Nonce) (later : List HostInput) (i : Instr),
    s.inputs = .command record now rnd :: later → decode .host record = .ok i →
    i.WellFormed ∧ step s = exec i { s with inputs := later, now := now, rnd := rnd }

/-- Model's own form of a step with no command (log 1, log 5): with no input nothing happens; the reset input sets
every register to its reset value and answers nothing. -/
def Obligations.StepWithoutCommandIdlesOrResets : Prop :=
  (∀ s : State, s.inputs = [] → step s = .next { s with outputs := [], drew := false }) ∧
  ∀ (s : State) (later : List HostInput), s.inputs = .reset :: later →
    step s = .next { s with inputs := later, regs := Regs.reset, outputs := [], drew := false }

/-- R211, R212, in the order of the checks (1) to (3) of R213, for every record. A refused record changes no register,
emits nothing and takes no draw; a record that passes runs its instruction, whose own checks come after. -/
def Obligations.CommandChecksComeInOrder : Prop :=
  ∀ (s : State) (now : Time) (rnd : Nonce) (later : List HostInput),
    let s' : State := { s with inputs := later, now := now, rnd := rnd }
    (s.inputs = .command [] now rnd :: later → step s = .next (s'.finish { regs := s.regs, status := .eFmt })) ∧
    (∀ (op : Byte) (rest : Bytes), s.inputs = .command (op :: rest) now rnd :: later →
      (op ∉ [0x00#8, 0x10#8, 0x11#8, 0x12#8, 0x13#8, 0x14#8, 0x20#8, 0x21#8, 0x30#8, 0x31#8, 0x32#8, 0x33#8,
          0x40#8, 0x41#8, 0x42#8, 0x50#8] →
        step s = .next (s'.finish { regs := s.regs, status := .eOp })) ∧
      ((op ∈ [0x00#8, 0x10#8, 0x12#8, 0x33#8, 0x41#8, 0x42#8] ∧ rest ≠ []) ∨
        (op ∈ [0x11#8, 0x32#8] ∧ rest.length ≠ 1) ∨
        (op ∈ [0x30#8, 0x31#8] ∧ rest.length ≠ 2) ∨
        (op ∈ [0x13#8, 0x20#8, 0x21#8, 0x40#8, 0x50#8] ∧
          (rest = [] ∨ ∃ n p, rest = n :: p ∧ p.length ≠ n.toNat)) ∨
        (op = 0x14#8 ∧ (rest.length < 3 ∨ ∃ x y n p, rest = x :: y :: n :: p ∧ p.length ≠ n.toNat)) →
        step s = .next (s'.finish { regs := s.regs, status := .eFmt })) ∧
      ∀ i : Instr, decode .host (op :: rest) = .ok i → step s = exec i s')

/-! ### System -/

/-- R210: `SYS.RESET` sets every register to its reset value, answers `OK`, emits nothing; the reset input leaves the
same registers. -/
def Obligations.SysResetRestoresEveryRegister : Prop :=
  decode .host [0x00#8] = .ok .sysReset ∧
  ∀ s : State, exec .sysReset s =
    .next (s.finish
      { regs :=
          { acc := 0x1021#16, phase := .idle, outcome := .pending, retriesLeft := 0#8, nextAt := 0#32,
            chal := 0#16, issued := 0#16, corr := 0#16, bodyLen := 0#5,
            body := Vector.replicate 24 0#8,
            slots := Vector.replicate 5 ⟨false, 0#16, 0#16, 0#32, .requestNonce⟩ },
        status := .ok }) ∧
    ∀ later : List HostInput, s.inputs = .reset :: later →
      ∃ t u : State, step s = .next t ∧ exec .sysReset s = .next u ∧ t.regs = u.regs

/-- R251: the state after reset. -/
def Obligations.ResetStateHasTheListedValues : Prop :=
  State.reset.regs.acc = 0x1021#16 ∧
  (∀ i : Fin numSlots, State.reset.regs.slots[i].valid = false ∧ State.reset.regs.slots[i].chal = 0#16 ∧
    State.reset.regs.slots[i].iss = 0#16 ∧ State.reset.regs.slots[i].t = 0#32) ∧
  State.reset.regs.phase = .idle ∧ State.reset.regs.outcome = .pending ∧
  State.reset.regs.retriesLeft = 0#8 ∧ State.reset.regs.nextAt = 0#32 ∧
  State.reset.regs.chal = 0#16 ∧ State.reset.regs.issued = 0#16 ∧ State.reset.regs.corr = 0#16 ∧
  State.reset.regs.bodyLen = 0#5 ∧ (∀ k : Fin bodyCapacity, State.reset.regs.body[k] = 0#8) ∧
  State.reset.outputs = []

/-- R252, which the spec marks as derived from R251: what the operations do right after reset, at every `now`. -/
def Obligations.AfterResetNothingIsLiveOrPending : Prop :=
  ∀ s : State, s.regs = Regs.reset →
    exec .camCnt s = .next (s.finish { regs := s.regs, status := .ok, result := [0#8] }) ∧
    (∀ v, exec (.camChk v) s = .next (s.finish { regs := s.regs, status := .eMiss })) ∧
    (∀ n k b, exec (.data n k b) s = .next (s.finish { regs := s.regs, status := .eMiss })) ∧
    (∀ c n, exec (.nonce c n) s = .next (s.finish { regs := s.regs, status := .eNomatch })) ∧
    (∀ k, exec (.ack k) s = .next (s.finish { regs := s.regs, status := .eNomatch })) ∧
    exec .txTick s = .next (s.finish { regs := s.regs, status := .ok, result := [0#8] }) ∧
    exec .txStat s = .next (s.finish { regs := s.regs, status := .ok, result := [0#8, 0#8, 0#8] }) ∧
    ∀ a, exec (.crcByte a) s = execAll [.crcInit, .crcByte a] s

/-! ### Checksum -/

/-- R100: one checksum step, in both forms the rule gives. -/
def Obligations.ChecksumStepRotatesAndXors : Prop :=
  ∀ (acc : Cksum) (b : Byte),
    ckStep acc b = (if acc.getLsbD 15 = true then (acc <<< 1) ||| 1#16 else acc <<< 1) ^^^ b.setWidth 16 ∧
    ckStep acc b = acc.rotateLeft 1 ^^^ b.setWidth 16

/-- R101: the checksum of a string, and of a frame's length byte and payload. -/
def Obligations.ChecksumFoldsTheSteps : Prop :=
  cksum [] = 0x1021#16 ∧
  (∀ (s : Bytes) (b : Byte), cksum (s ++ [b]) = ckStep (cksum s) b) ∧
  ∀ p : Bytes, payloadCksum p = cksum (BitVec.ofNat 8 p.length :: p)

/-- R102, which the spec marks as derived from R100 and R101: the closed form of the checksum, and that it is affine
over exclusive-or for strings of equal length. -/
def Obligations.ChecksumHasTheClosedForm : Prop :=
  (∀ s : Bytes,
    cksum s = (0x1021#16).rotateLeft s.length ^^^
      (s.mapIdx fun k b => (b.setWidth 16).rotateLeft (s.length - 1 - k)).foldl (· ^^^ ·) 0#16) ∧
  ∀ s d : Bytes, s.length = d.length →
    cksum (List.zipWith (· ^^^ ·) s d) = cksum s ^^^ d.foldl ckStep 0#16

/-- R103, which the spec marks as derived from R100: for a fixed byte a step is a bijection. -/
def Obligations.ChecksumStepIsBijective : Prop :=
  ∀ b : Byte, Function.Bijective fun acc : Cksum => ckStep acc b

/-- R110 (a), which the spec marks as derived from R102: changing one bit of the string changes exactly one bit of
the checksum, so it is always detected. -/
def Obligations.SingleBitChangeFlipsOneChecksumBit : Prop :=
  ∀ (s : Bytes) (k j : Nat) (hk : k < s.length), j < 8 →
    cksum (s.set k (s[k] ^^^ (1#8 <<< j))) = cksum s ^^^ (1#16).rotateLeft (j + (s.length - 1 - k)) ∧
    cksum (s.set k (s[k] ^^^ (1#8 <<< j))) ≠ cksum s

/-- R110 (b), which the spec marks as derived from R102: two patterns of two changed bits that leave the checksum
as it was. -/
def Obligations.SomeTwoBitChangesAreUndetected : Prop :=
  (∀ (s : Bytes) (k j : Nat) (hk : k + 1 < s.length), j ≤ 6 →
    cksum ((s.set k (s[k] ^^^ (1#8 <<< j))).set (k + 1) (s[k + 1] ^^^ (1#8 <<< (j + 1)))) = cksum s) ∧
  ∀ (s : Bytes) (k j : Nat) (hk : k + 16 < s.length), j < 8 →
    cksum ((s.set k (s[k] ^^^ (1#8 <<< j))).set (k + 16) (s[k + 16] ^^^ (1#8 <<< j))) = cksum s

/-- R104: `CRC.INIT`. -/
def Obligations.CrcInitLoadsTheInitialValue : Prop :=
  decode .host [0x10#8] = .ok .crcInit ∧
  ∀ s : State, exec .crcInit s =
    .next (s.finish { regs := { s.regs with acc := 0x1021#16 }, status := .ok })

/-- R105: `CRC.BYTE a`. -/
def Obligations.CrcByteStepsTheAccumulator : Prop :=
  (∀ a : Byte, decode .host [0x11#8, a] = .ok (.crcByte a)) ∧
  ∀ (a : Byte) (s : State), exec (.crcByte a) s =
    .next (s.finish { regs := { s.regs with acc := ckStep s.regs.acc a }, status := .ok })

/-- R106: `CRC.READ`. -/
def Obligations.CrcReadAnswersTheAccumulator : Prop :=
  decode .host [0x12#8] = .ok .crcRead ∧
  ∀ s : State, exec .crcRead s =
    .next (s.finish
      { regs := s.regs, status := .ok,
        result := [s.regs.acc.extractLsb' 8 8, s.regs.acc.extractLsb' 0 8] })

/-- R107: `CRC.GEN n, s`, with its equivalence to the byte-serial sequence. -/
def Obligations.CrcGenEqualsTheByteSerialSequence : Prop :=
  (∀ (n : Byte) (p : Bytes), p.length = n.toNat → decode .host (0x13#8 :: n :: p) = .ok (.crcGen p)) ∧
  ∀ (p : Bytes) (s : State),
    (29 < p.length → exec (.crcGen p) s = .next (s.finish { regs := s.regs, status := .eLen })) ∧
    (p.length ≤ 29 →
      exec (.crcGen p) s =
        .next (s.finish
          { regs := { s.regs with acc := cksum (BitVec.ofNat 8 p.length :: p) }, status := .ok,
            result := [hi (cksum (BitVec.ofNat 8 p.length :: p)), lo (cksum (BitVec.ofNat 8 p.length :: p))] }) ∧
      exec (.crcGen p) s =
        execAll ([.crcInit, .crcByte (BitVec.ofNat 8 p.length)] ++ p.map .crcByte ++ [.crcRead]) s)

/-- R108: `CRC.CHK k, n, s`, with the round-trip law. -/
def Obligations.CrcChkComparesTheRecomputedChecksum : Prop :=
  (∀ (h l n : Byte) (p : Bytes), p.length = n.toNat →
    decode .host (0x14#8 :: h :: l :: n :: p) = .ok (.crcChk (be16 h l) p)) ∧
  ∀ (k : Cksum) (p : Bytes) (s : State),
    let c := cksum (BitVec.ofNat 8 p.length :: p)
    let r : Regs := { s.regs with acc := c }
    (29 < p.length → exec (.crcChk k p) s = .next (s.finish { regs := s.regs, status := .eLen })) ∧
    (p.length ≤ 29 → c = k →
      exec (.crcChk k p) s = .next (s.finish { regs := r, status := .ok, result := [hi c, lo c] })) ∧
    (p.length ≤ 29 → c ≠ k →
      exec (.crcChk k p) s = .next (s.finish { regs := r, status := .eCksum, result := [hi c, lo c] })) ∧
    (p.length ≤ 29 →
      exec (.crcChk c p) s = .next (s.finish { regs := r, status := .ok, result := [hi c, lo c] }))

/-- R111: `ACC` is private to the CRC family: no other operation but reset writes it or depends on it, and `CRC.GEN`
and `CRC.CHK` end a byte-serial sequence, whatever `ACC` held. -/
def Obligations.AccumulatorIsPrivateToTheCrcFamily : Prop :=
  (∀ (i : Instr) (s t : State), touchesAcc i = false → exec i s = .next t →
    t.regs.acc = s.regs.acc ∧
    ∀ a : Cksum, exec i { s with regs := { s.regs with acc := a } } =
      .next { t with regs := { t.regs with acc := a } }) ∧
  ∀ (k a : Cksum) (p : Bytes) (s : State), p.length ≤ 29 →
    exec (.crcGen p) { s with regs := { s.regs with acc := a } } = exec (.crcGen p) s ∧
    exec (.crcChk k p) { s with regs := { s.regs with acc := a } } = exec (.crcChk k p) s

/-! ### Frame codec -/

/-- R120, R122: the bytes and the size of an encoded frame, and `FRM.ENC n, s`. -/
def Obligations.FrmEncBuildsTheFrame : Prop :=
  (∀ (n : Byte) (m : Bytes), m.length = n.toNat → decode .host (0x20#8 :: n :: m) = .ok (.frmEnc m)) ∧
  (∀ m : Bytes, m.length ≤ 29 →
    let c := cksum (BitVec.ofNat 8 m.length :: m)
    let size := if m.length ≤ 13 then 16 else 32
    frameEncode m =
      [c.extractLsb' 8 8, c.extractLsb' 0 8, BitVec.ofNat 8 m.length] ++ m ++
        List.replicate (size - 3 - m.length) 0#8 ∧
    (frameEncode m).length = size) ∧
  ∀ (m : Bytes) (s : State),
    (29 < m.length → exec (.frmEnc m) s = .next (s.finish { regs := s.regs, status := .eLen })) ∧
    (m.length ≤ 29 →
      exec (.frmEnc m) s = .next (s.finish { regs := s.regs, status := .ok, result := frameEncode m }))

/-- R121, R123: `FRM.DEC n, s`: the five checks in order, each with its status, and the message of a frame that
passes them. -/
def Obligations.FrmDecChecksInOrder : Prop :=
  (∀ (n : Byte) (f : Bytes), f.length = n.toNat → decode .host (0x21#8 :: n :: f) = .ok (.frmDec f)) ∧
  ∀ s : State,
    (∀ f : Bytes, f.length % 16 ≠ 0 →
      exec (.frmDec f) s = .next (s.finish { regs := s.regs, status := .eAlign })) ∧
    (∀ f : Bytes, f.length % 16 = 0 → f.length = 0 ∨ 32 < f.length →
      exec (.frmDec f) s = .next (s.finish { regs := s.regs, status := .eSize })) ∧
    ∀ (c0 c1 n : Byte) (rest : Bytes), rest.length = 13 ∨ rest.length = 29 →
      let f := c0 :: c1 :: n :: rest
      (29 < n.toNat → exec (.frmDec f) s = .next (s.finish { regs := s.regs, status := .eLen })) ∧
      (n.toNat ≤ 29 → rest.length < n.toNat →
        exec (.frmDec f) s = .next (s.finish { regs := s.regs, status := .eFit })) ∧
      (n.toNat ≤ 29 → n.toNat ≤ rest.length → cksum (n :: rest.take n.toNat) ≠ be16 c0 c1 →
        exec (.frmDec f) s = .next (s.finish { regs := s.regs, status := .eCksum })) ∧
      (n.toNat ≤ 29 → n.toNat ≤ rest.length → cksum (n :: rest.take n.toNat) = be16 c0 c1 →
        exec (.frmDec f) s =
          .next (s.finish { regs := s.regs, status := .ok, result := n :: rest.take n.toNat }))

/-- R124, which the spec marks as derived from R120 and R121: decoding an encoded message gives it back, and a frame
that decodes to a message agrees with the encoding of that message in its first `3 + len` bytes. -/
def Obligations.FrameEncodeDecodeRoundTrip : Prop :=
  (∀ m : Bytes, m.length ≤ 29 → frameDecode (frameEncode m) = .ok m) ∧
  ∀ f m : Bytes, frameDecode f = .ok m →
    m.length ≤ 29 ∧ (frameEncode m).take (3 + m.length) = f.take (3 + m.length)

/-- 41_frame.md R125: two frames of one size that differ only in pad decode to the same message. -/
def Obligations.PadBytesAreNotInspected : Prop :=
  ∀ f g m : Bytes, frameDecode f = .ok m → g.length = f.length →
    g.take (3 + m.length) = f.take (3 + m.length) → frameDecode g = .ok m

/-! ### CAM -/

/-- R140, R160: a valid slot is live for exactly the first 1000 ms of each turn of the counter after its creation, a
slot never written is never live, and a deadline is due for exactly the first `2 ^ 31` ms from it. -/
def Obligations.LiveAndDueAreModularWindows : Prop :=
  (∀ (e : Slot) (d : Nat), d < 2 ^ 32 → live (e.t + BitVec.ofNat 32 d) e = (e.valid && decide (d < 1000))) ∧
  ∀ (nextAt : Time) (d : Nat), d < 2 ^ 32 → due (nextAt + BitVec.ofNat 32 d) nextAt = decide (d < 2 ^ 31)

/-- R141, R143: `CAM.REQ v`: the lowest live match is reused and nothing is written; else the lowest dead slot is
written with the draw and `now`; else the table is full. -/
def Obligations.CamReqReusesAllocatesOrIsFull : Prop :=
  (∀ h l : Byte, decode .host [0x30#8, h, l] = .ok (.camReq (be16 h l))) ∧
  ∀ (v : Nonce) (s : State),
    (∀ i : Fin numSlots, live s.now s.regs.slots[i] = true → s.regs.slots[i].chal = v →
      (∀ j : Fin numSlots, j < i → live s.now s.regs.slots[j] = true → s.regs.slots[j].chal ≠ v) →
      exec (.camReq v) s =
        .next (s.finish
          { regs := s.regs, status := .ok,
            result := [0#8, hi s.regs.slots[i].iss, lo s.regs.slots[i].iss, BitVec.ofNat 8 i.val] })) ∧
    (∀ i : Fin numSlots,
      (∀ j : Fin numSlots, live s.now s.regs.slots[j] = true → s.regs.slots[j].chal ≠ v) →
      live s.now s.regs.slots[i] = false →
      (∀ j : Fin numSlots, j < i → live s.now s.regs.slots[j] = true) →
      exec (.camReq v) s =
        .next (s.finish
          { regs := { s.regs with slots := s.regs.slots.set i ⟨true, v, s.rnd, s.now, .requestNonce⟩ },
            status := .ok, result := [1#8, hi s.rnd, lo s.rnd, BitVec.ofNat 8 i.val], drew := true })) ∧
    ((∀ j : Fin numSlots, live s.now s.regs.slots[j] = true ∧ s.regs.slots[j].chal ≠ v) →
      exec (.camReq v) s = .next (s.finish { regs := s.regs, status := .eFull }))

/-- R142, R144: `CAM.CHK v`: the lowest live slot that issued the nonce, or a miss. -/
def Obligations.CamChkFindsTheLowestLiveIssuer : Prop :=
  (∀ h l : Byte, decode .host [0x31#8, h, l] = .ok (.camChk (be16 h l))) ∧
  ∀ (v : Nonce) (s : State),
    (∀ i : Fin numSlots, live s.now s.regs.slots[i] = true → s.regs.slots[i].iss = v →
      (∀ j : Fin numSlots, j < i → live s.now s.regs.slots[j] = true → s.regs.slots[j].iss ≠ v) →
      exec (.camChk v) s =
        .next (s.finish { regs := s.regs, status := .ok, result := [BitVec.ofNat 8 i.val] })) ∧
    ((∀ j : Fin numSlots, live s.now s.regs.slots[j] = true → s.regs.slots[j].iss ≠ v) →
      exec (.camChk v) s = .next (s.finish { regs := s.regs, status := .eMiss }))

/-- R145: `CAM.RD a`. -/
def Obligations.CamRdAnswersTheSlotOrRefusesTheIndex : Prop :=
  (∀ a : Byte, decode .host [0x32#8, a] = .ok (.camRd a)) ∧
  (∀ (i : Fin numSlots) (s : State),
    let e := s.regs.slots[i]
    exec (.camRd (BitVec.ofNat 8 i.val)) s =
      .next (s.finish
        { regs := s.regs, status := .ok,
          result :=
            [if e.valid = true then 1#8 else 0#8, if live s.now e = true then 1#8 else 0#8,
              e.chal.extractLsb' 8 8, e.chal.extractLsb' 0 8, e.iss.extractLsb' 8 8, e.iss.extractLsb' 0 8,
              e.t.extractLsb' 24 8, e.t.extractLsb' 16 8, e.t.extractLsb' 8 8, e.t.extractLsb' 0 8] })) ∧
  ∀ (a : Byte) (s : State), 5 ≤ a.toNat →
    exec (.camRd a) s = .next (s.finish { regs := s.regs, status := .eIdx })

/-- R146: `CAM.CNT`. -/
def Obligations.CamCntCountsTheLiveSlots : Prop :=
  decode .host [0x33#8] = .ok .camCnt ∧
  ∀ s : State, exec .camCnt s =
    .next (s.finish
      { regs := s.regs, status := .ok,
        result :=
          [BitVec.ofNat 8 (Finset.univ.filter fun i : Fin numSlots => live s.now s.regs.slots[i] = true).card] })

/-- 42_cam.md R147: the life of an entry. No instruction but reset changes a slot that is live or clears `VALID`, and
a slot changes only by a request for a challenge (`CAM.REQ`, `REQN`), which writes it whole. -/
def Obligations.LiveSlotsAreNeverModified : Prop :=
  ∀ (i : Instr) (s t : State) (j : Fin numSlots), i ≠ .sysReset → exec i s = .next t →
    (live s.now s.regs.slots[j] = true → t.regs.slots[j] = s.regs.slots[j]) ∧
    (s.regs.slots[j].valid = true → t.regs.slots[j].valid = true) ∧
    (t.regs.slots[j] ≠ s.regs.slots[j] →
      ∃ c : Nonce, (i = .camReq c ∨ Receives i (.reqn c)) ∧
        t.regs.slots[j] = ⟨true, c, s.rnd, s.now, .requestNonce⟩ ∧ t.drew = true)

/-- R148, which the spec marks as derived from R141: while an entry lives, and whatever commands but `SYS.RESET` come
between, a request for its challenge is answered with the same issued nonce and writes nothing. The premise on the
other slots rules out the aliasing of R257 (log 11). -/
def Obligations.HandshakeIsIdempotentWhileTheEntryLives : Prop :=
  ∀ (s : State) (i : Fin numSlots) (commands : List HostInput) (now : Time) (rnd : Nonce),
    s.regs.slots[i].valid = true →
    (∀ j : Fin numSlots, j ≠ i → s.regs.slots[j].chal = s.regs.slots[i].chal →
      ∀ d : Nat, d < 1000 → live (s.regs.slots[i].t + BitVec.ofNat 32 d) s.regs.slots[j] = false) →
    (∀ x ∈ commands, ∃ record now' rnd', x = .command record now' rnd' ∧
      (now' - s.regs.slots[i].t).toNat < 1000 ∧ decode .host record ≠ .ok .sysReset) →
    (now - s.regs.slots[i].t).toNat < 1000 →
    ∃ t u : State, feed commands s = .next t ∧
      exec (.camReq s.regs.slots[i].chal) { t with now := now, rnd := rnd } = .next u ∧
      u.rsp = some
        ⟨.ok, [0#8, hi s.regs.slots[i].iss, lo s.regs.slots[i].iss, BitVec.ofNat 8 i.val]⟩ ∧
      u.regs = t.regs

/-- R149, which the spec marks as derived from R141, at one `now`: an instruction keeps the challenges of the slots
live at that `now` distinct. -/
def Obligations.LiveChallengesStayDistinctAtOneTime : Prop :=
  ∀ (i : Instr) (s t : State), LiveChallengesDistinct s.now s.regs.slots → exec i s = .next t →
    LiveChallengesDistinct s.now t.regs.slots

/-- R149 over time, with the premise that rules out R257 and R258 (log 11): under a clock that neither goes back nor
wraps, every step keeps the table ordered, and in an ordered table live challenges are distinct. -/
def Obligations.OrderedTableIsKeptByEveryStep : Prop :=
  ∀ s t : State, TableOrdered s.now s.regs.slots →
    (∀ record now rnd later, s.inputs = .command record now rnd :: later → s.now.toNat ≤ now.toNat) →
    step s = .next t →
    TableOrdered t.now t.regs.slots ∧ LiveChallengesDistinct t.now t.regs.slots

/-! ### Send session -/

/-- R162: `TX.SEND n, s`: the busy test, the length test, and the accepted send. -/
def Obligations.TxSendStartsASendOrRefuses : Prop :=
  (∀ (n : Byte) (p : Bytes), p.length = n.toNat → decode .host (0x40#8 :: n :: p) = .ok (.txSend p)) ∧
  ∀ (p : Bytes) (s : State),
    (s.regs.phase ≠ .idle → exec (.txSend p) s = .next (s.finish { regs := s.regs, status := .eBusy })) ∧
    (s.regs.phase = .idle → 24 < p.length →
      exec (.txSend p) s =
        .next (s.finish { regs := { s.regs with outcome := .failure }, status := .eLen })) ∧
    (s.regs.phase = .idle → p.length ≤ 24 →
      ∃ stored : Vector Byte bodyCapacity,
        (∀ (k : Nat) (h : k < bodyCapacity), stored[k] = if h' : k < p.length then p[k] else s.regs.body[k]) ∧
        exec (.txSend p) s =
          .next (s.finish
            { regs :=
                { s.regs with
                  bodyLen := BitVec.ofNat 5 p.length, body := stored, chal := s.rnd, phase := .awaitingNonce,
                  outcome := .pending, retriesLeft := 19#8, nextAt := s.now + 50#32 },
              status := .ok, emitted := [.txf (frameEncode [0x01#8, hi s.rnd, lo s.rnd])], drew := true }))

/-- R163: `TX.TICK`: idle, waiting, timeout, retransmission of the `REQN`, retransmission of the `DATA`. -/
def Obligations.TxTickWaitsRetransmitsOrTimesOut : Prop :=
  decode .host [0x41#8] = .ok .txTick ∧
  ∀ s : State,
    (s.regs.phase = .idle →
      exec .txTick s = .next (s.finish { regs := s.regs, status := .ok, result := [0#8] })) ∧
    (s.regs.phase ≠ .idle → due s.now s.regs.nextAt = false →
      exec .txTick s = .next (s.finish { regs := s.regs, status := .ok, result := [1#8] })) ∧
    (s.regs.phase ≠ .idle → due s.now s.regs.nextAt = true → s.regs.retriesLeft = 0#8 →
      exec .txTick s =
        .next (s.finish { regs := { s.regs with phase := .idle, outcome := .failure }, status := .eTimeout })) ∧
    (due s.now s.regs.nextAt = true → s.regs.retriesLeft ≠ 0#8 →
      let r : Regs := { s.regs with retriesLeft := s.regs.retriesLeft - 1#8, nextAt := s.now + 50#32 }
      (s.regs.phase = .awaitingNonce →
        exec .txTick s =
          .next (s.finish
            { regs := r, status := .ok, result := [2#8],
              emitted := [.txf (frameEncode [0x01#8, hi s.regs.chal, lo s.regs.chal])] })) ∧
      (s.regs.phase = .awaitingAck →
        exec .txTick s =
          .next (s.finish
            { regs := r, status := .ok, result := [2#8],
              emitted :=
                [.txf (frameEncode
                  ([0x03#8, hi s.regs.issued, lo s.regs.issued, hi s.regs.corr, lo s.regs.corr] ++
                    s.regs.body.toList.take s.regs.bodyLen.toNat))] })))

/-- R164: `TX.STAT`, with the encodings of R26 and R29. -/
def Obligations.TxStatAnswersTheSession : Prop :=
  decode .host [0x42#8] = .ok .txStat ∧
  ∀ s : State, exec .txStat s =
    .next (s.finish
      { regs := s.regs, status := .ok,
        result :=
          [if s.regs.phase = .idle then 0#8 else if s.regs.phase = .awaitingNonce then 1#8 else 2#8,
            if s.regs.outcome = .pending then 0#8 else if s.regs.outcome = .success then 1#8 else 2#8,
            s.regs.retriesLeft] })

/-- R165: reception of `NONCE c, i`. -/
def Obligations.NonceStartsTheDataPhaseOrIsIgnored : Prop :=
  (∀ ch cl ih il : Byte, decode .wire [0x02#8, ch, cl, ih, il] = .ok (.nonce (be16 ch cl) (be16 ih il))) ∧
  ∀ (c n : Nonce) (s : State),
    (s.regs.phase = .awaitingNonce → c = s.regs.chal →
      exec (.nonce c n) s =
        .next (s.finish
          { regs :=
              { s.regs with
                issued := n, corr := s.rnd, phase := .awaitingAck, retriesLeft := 19#8,
                nextAt := s.now + 50#32 },
            status := .ok, result := [4#8],
            emitted :=
              [.txf (frameEncode
                ([0x03#8, hi n, lo n, hi s.rnd, lo s.rnd] ++ s.regs.body.toList.take s.regs.bodyLen.toNat))],
            drew := true })) ∧
    (s.regs.phase ≠ .awaitingNonce ∨ c ≠ s.regs.chal →
      exec (.nonce c n) s = .next (s.finish { regs := s.regs, status := .eNomatch }))

/-- R166: reception of `ACK k`. -/
def Obligations.AckEndsTheSendOrIsIgnored : Prop :=
  (∀ kh kl : Byte, decode .wire [0x04#8, kh, kl] = .ok (.ack (be16 kh kl))) ∧
  ∀ (k : Nonce) (s : State),
    (s.regs.phase = .awaitingAck → k = s.regs.corr →
      exec (.ack k) s =
        .next (s.finish
          { regs := { s.regs with phase := .idle, outcome := .success }, status := .ok, result := [5#8] })) ∧
    (s.regs.phase ≠ .awaitingAck ∨ k ≠ s.regs.corr →
      exec (.ack k) s = .next (s.finish { regs := s.regs, status := .eNomatch }))

/-- R161, which the spec marks as derived: the transitions of `PHASE`, complete. Whatever the instruction, the phase
stays or one of the listed transitions was made under its condition. -/
def Obligations.PhaseTransitionsAreComplete : Prop :=
  ∀ (i : Instr) (s t : State), exec i s = .next t →
    t.regs.phase = s.regs.phase ∨
    (i = .sysReset ∧ t.regs.phase = .idle ∧ t.regs.outcome = .pending) ∨
    (s.regs.phase = .idle ∧ t.regs.phase = .awaitingNonce ∧ t.regs.outcome = .pending ∧
      ∃ p : Bytes, i = .txSend p ∧ p.length ≤ 24) ∨
    (s.regs.phase ≠ .idle ∧ t.regs.phase = .idle ∧ t.regs.outcome = .failure ∧
      i = .txTick ∧ due s.now s.regs.nextAt = true ∧ s.regs.retriesLeft = 0#8) ∨
    (s.regs.phase = .awaitingNonce ∧ t.regs.phase = .awaitingAck ∧
      ∃ n : Nonce, Receives i (.nonce s.regs.chal n) ∧ t.regs.issued = n) ∨
    (s.regs.phase = .awaitingAck ∧ t.regs.phase = .idle ∧ t.regs.outcome = .success ∧
      Receives i (.ack s.regs.corr))

/-- R167, R168, which the spec marks as derived: from the entry of a phase at `t0`, a host that ticks exactly at each
deadline and gets no reply sees nineteen retransmissions of the phase's message (with the first transmission,
`RETRIES` = 20) and then the timeout, at `t0 + 1000`. -/
def Obligations.UnansweredPhaseRetransmitsNineteenTimesThenFails : Prop :=
  ∀ (s : State) (t0 : Time) (rnd : Nonce),
    s.regs.phase ≠ .idle → s.regs.retriesLeft = 19#8 → s.regs.nextAt = t0 + 50#32 →
    (∀ k : Nat, k < 19 →
      ∃ t : State, feed (deadlineTicks t0 rnd (k + 1)) s = .next t ∧ t.rsp = some ⟨.ok, [2#8]⟩ ∧
        t.emitted = [txMessage s.regs.sessionMessage] ∧ t.regs.phase = s.regs.phase ∧
        t.regs.retriesLeft = BitVec.ofNat 8 (18 - k)) ∧
    ∃ t : State, feed (deadlineTicks t0 rnd 20) s = .next t ∧ t.rsp = some ⟨.eTimeout, []⟩ ∧ t.emitted = [] ∧
      t.regs.phase = .idle ∧ t.regs.outcome = .failure ∧ t.now = t0 + 1000#32

/-- R169, which the spec marks as derived: what a send transmits is written once per send, and so its frames repeat.
Only `TX.SEND` and reset write the challenge and the body, only a `NONCE` and reset write the issued nonce and the
token, and while a send is in flight only a reset changes the challenge or the body. The instruction that enters a
phase emits the phase's message, every `TX.TICK` of the phase emits nothing or the same message, and that message
does not change while the phase lasts. -/
def Obligations.SendTransmitsIdenticalFrames : Prop :=
  ∀ (i : Instr) (s t : State), exec i s = .next t → i ≠ .sysReset →
    ((∀ p : Bytes, i ≠ .txSend p) ∨ s.regs.phase ≠ .idle →
      t.regs.chal = s.regs.chal ∧ t.regs.bodyLen = s.regs.bodyLen ∧ t.regs.body = s.regs.body) ∧
    ((∀ c n : Nonce, ¬ Receives i (.nonce c n)) ∨ s.regs.phase ≠ .awaitingNonce →
      t.regs.issued = s.regs.issued ∧ t.regs.corr = s.regs.corr) ∧
    (t.regs.phase ≠ s.regs.phase → t.regs.phase ≠ .idle → t.emitted = [txMessage t.regs.sessionMessage]) ∧
    (i = .txTick → t.emitted = [] ∨ t.emitted = [txMessage s.regs.sessionMessage]) ∧
    (t.regs.phase = s.regs.phase → s.regs.phase ≠ .idle → t.regs.sessionMessage = s.regs.sessionMessage)

/-! ### Reception -/

/-- R190, R194: `RX.FRAME n, s`: a frame that does not decode, an unknown or malformed message, and the selection of
the message rule by type byte and length, in every phase. -/
def Obligations.RxFrameDispatchesByTypeAndLength : Prop :=
  (∀ (n : Byte) (f : Bytes), f.length = n.toNat → decode .host (0x50#8 :: n :: f) = .ok (.rxFrame f)) ∧
  ∀ (f : Bytes) (s : State),
    (∀ st : Status, frameDecode f = .error st →
      exec (.rxFrame f) s = .next (s.finish { regs := s.regs, status := st })) ∧
    (frameDecode f = .ok [] → exec (.rxFrame f) s = .next (s.finish { regs := s.regs, status := .eType })) ∧
    ∀ (ty : Byte) (fields : Bytes), frameDecode f = .ok (ty :: fields) →
      (ty ∉ [0x01#8, 0x02#8, 0x03#8, 0x04#8] →
        exec (.rxFrame f) s = .next (s.finish { regs := s.regs, status := .eType })) ∧
      ((ty = 0x01#8 ∧ fields.length ≠ 2) ∨ (ty = 0x02#8 ∧ fields.length ≠ 4) ∨
        (ty = 0x03#8 ∧ fields.length < 4) ∨ (ty = 0x04#8 ∧ fields.length ≠ 2) →
        exec (.rxFrame f) s = .next (s.finish { regs := s.regs, status := .eMsg })) ∧
      (∀ h l : Byte, ty = 0x01#8 → fields = [h, l] → exec (.rxFrame f) s = exec (.reqn (be16 h l)) s) ∧
      (∀ ch cl ih il : Byte, ty = 0x02#8 → fields = [ch, cl, ih, il] →
        exec (.rxFrame f) s = exec (.nonce (be16 ch cl) (be16 ih il)) s) ∧
      (∀ (ih il kh kl : Byte) (b : Bytes), ty = 0x03#8 → fields = ih :: il :: kh :: kl :: b →
        exec (.rxFrame f) s = exec (.data (be16 ih il) (be16 kh kl) b) s) ∧
      (∀ kh kl : Byte, ty = 0x04#8 → fields = [kh, kl] → exec (.rxFrame f) s = exec (.ack (be16 kh kl)) s)

/-- 44_rx_dispatch.md R191: what an `RX.FRAME` does when its frame carries a message that takes effect: the event,
the reply, the delivery and the registers. -/
def Obligations.RxFrameTakesTheMessagesEffect : Prop :=
  ∀ (f : Bytes) (s : State),
    (∀ (c : Nonce) (i : Fin numSlots), frameDecode f = .ok [0x01#8, hi c, lo c] →
      live s.now s.regs.slots[i] = true → s.regs.slots[i].chal = c →
      (∀ j : Fin numSlots, j < i → live s.now s.regs.slots[j] = true → s.regs.slots[j].chal ≠ c) →
      exec (.rxFrame f) s =
        .next (s.finish
          { regs := s.regs, status := .ok, result := [1#8],
            emitted :=
              [.txf (frameEncode [0x02#8, hi c, lo c, hi s.regs.slots[i].iss, lo s.regs.slots[i].iss])] })) ∧
    (∀ (c : Nonce) (i : Fin numSlots), frameDecode f = .ok [0x01#8, hi c, lo c] →
      (∀ j : Fin numSlots, live s.now s.regs.slots[j] = true → s.regs.slots[j].chal ≠ c) →
      live s.now s.regs.slots[i] = false →
      (∀ j : Fin numSlots, j < i → live s.now s.regs.slots[j] = true) →
      exec (.rxFrame f) s =
        .next (s.finish
          { regs := { s.regs with slots := s.regs.slots.set i ⟨true, c, s.rnd, s.now, .requestNonce⟩ },
            status := .ok, result := [2#8],
            emitted := [.txf (frameEncode [0x02#8, hi c, lo c, hi s.rnd, lo s.rnd])], drew := true })) ∧
    (∀ n : Nonce, frameDecode f = .ok [0x02#8, hi s.regs.chal, lo s.regs.chal, hi n, lo n] →
      s.regs.phase = .awaitingNonce →
      exec (.rxFrame f) s =
        .next (s.finish
          { regs :=
              { s.regs with
                issued := n, corr := s.rnd, phase := .awaitingAck, retriesLeft := 19#8,
                nextAt := s.now + 50#32 },
            status := .ok, result := [4#8],
            emitted :=
              [.txf (frameEncode
                ([0x03#8, hi n, lo n, hi s.rnd, lo s.rnd] ++ s.regs.body.toList.take s.regs.bodyLen.toNat))],
            drew := true })) ∧
    (∀ (n k : Nonce) (b : Bytes) (i : Fin numSlots),
      frameDecode f = .ok ([0x03#8, hi n, lo n, hi k, lo k] ++ b) →
      live s.now s.regs.slots[i] = true → s.regs.slots[i].iss = n →
      exec (.rxFrame f) s =
        .next (s.finish
          { regs := s.regs, status := .ok, result := [3#8],
            emitted := [.dlv b, .txf (frameEncode [0x04#8, hi k, lo k])] })) ∧
    (frameDecode f = .ok [0x04#8, hi s.regs.corr, lo s.regs.corr] → s.regs.phase = .awaitingAck →
      exec (.rxFrame f) s =
        .next (s.finish
          { regs := { s.regs with phase := .idle, outcome := .success }, status := .ok, result := [5#8] }))

/-- R192: reception of `REQN c`. -/
def Obligations.ReqnRepliesOnReuseAndAllocation : Prop :=
  (∀ h l : Byte, decode .wire [0x01#8, h, l] = .ok (.reqn (be16 h l))) ∧
  ∀ (c : Nonce) (s : State),
    (∀ i : Fin numSlots, live s.now s.regs.slots[i] = true → s.regs.slots[i].chal = c →
      (∀ j : Fin numSlots, j < i → live s.now s.regs.slots[j] = true → s.regs.slots[j].chal ≠ c) →
      exec (.reqn c) s =
        .next (s.finish
          { regs := s.regs, status := .ok, result := [1#8],
            emitted :=
              [.txf (frameEncode [0x02#8, hi c, lo c, hi s.regs.slots[i].iss, lo s.regs.slots[i].iss])] })) ∧
    (∀ i : Fin numSlots,
      (∀ j : Fin numSlots, live s.now s.regs.slots[j] = true → s.regs.slots[j].chal ≠ c) →
      live s.now s.regs.slots[i] = false →
      (∀ j : Fin numSlots, j < i → live s.now s.regs.slots[j] = true) →
      exec (.reqn c) s =
        .next (s.finish
          { regs := { s.regs with slots := s.regs.slots.set i ⟨true, c, s.rnd, s.now, .requestNonce⟩ },
            status := .ok, result := [2#8],
            emitted := [.txf (frameEncode [0x02#8, hi c, lo c, hi s.rnd, lo s.rnd])], drew := true })) ∧
    ((∀ j : Fin numSlots, live s.now s.regs.slots[j] = true ∧ s.regs.slots[j].chal ≠ c) →
      exec (.reqn c) s = .next (s.finish { regs := s.regs, status := .eFull }))

/-- R193: reception of `DATA i, k, b`: the delivery and then the acknowledgment, or nothing. -/
def Obligations.DataIsDeliveredAndAcknowledgedOrDropped : Prop :=
  (∀ (ih il kh kl : Byte) (b : Bytes), b.length ≤ 24 →
    decode .wire (0x03#8 :: ih :: il :: kh :: kl :: b) = .ok (.data (be16 ih il) (be16 kh kl) b)) ∧
  ∀ (n k : Nonce) (b : Bytes) (s : State),
    (∀ i : Fin numSlots, live s.now s.regs.slots[i] = true → s.regs.slots[i].iss = n →
      exec (.data n k b) s =
        .next (s.finish
          { regs := s.regs, status := .ok, result := [3#8],
            emitted := [.dlv b, .txf (frameEncode [0x04#8, hi k, lo k])] })) ∧
    ((∀ i : Fin numSlots, live s.now s.regs.slots[i] = true → s.regs.slots[i].iss ≠ n) →
      exec (.data n k b) s = .next (s.finish { regs := s.regs, status := .eMiss }))

/-- 30_encoding.md R70 with 41_frame.md R120: a message received in the frame SNPE itself would build for it does
what the message does. -/
def Obligations.ReceivingAnEncodedMessageRunsIt : Prop :=
  ∀ (i : Instr) (s : State), i.space = .wire → i.WellFormed →
    exec (.rxFrame (frameEncode (encode i))) s = exec i s

/-- R171: the responder role, in every phase: what a `REQN` or a `DATA` does depends on the slots, `NOW` and `RND`
only, and it writes no register but the slots. -/
def Obligations.ResponderIgnoresTheSession : Prop :=
  ∀ (i : Instr) (s s' t : State),
    (∃ c, Receives i (.reqn c)) ∨ (∃ n k b, Receives i (.data n k b)) →
    s'.regs.slots = s.regs.slots → s'.now = s.now → s'.rnd = s.rnd → exec i s = .next t →
    t.regs = { s.regs with slots := t.regs.slots } ∧
    ∃ t' : State, exec i s' = .next t' ∧ t'.regs = { s'.regs with slots := t.regs.slots } ∧
      t'.rsp = t.rsp ∧ t'.emitted = t.emitted ∧ t'.drew = t.drew

/-- R196, which the spec marks as derived: a body is delivered only while the table holds an entry, made less than
`TTL` ago, whose issued nonce the message carries; and the delivery does not consume it. -/
def Obligations.DeliveryNeedsALiveHandshake : Prop :=
  ∀ (s t : State) (b : Bytes), step s = .next t → .dlv b ∈ t.emitted →
    ∃ (f : Bytes) (n k : Nonce) (later : List HostInput) (j : Fin numSlots),
      s.inputs = .command (encode (.rxFrame f)) t.now t.rnd :: later ∧
      carriedMessage f = some (.data n k b) ∧
      s.regs.slots[j].valid = true ∧ s.regs.slots[j].iss = n ∧ (t.now - s.regs.slots[j].t).toNat < 1000 ∧
      t.regs = s.regs

/-- R197, which the spec marks as derived: the full exchange between two instances. From an idle sender and a
responder with a free slot and no live entry for the challenge, each frame carried unchanged to the other side, the
responder delivers the body and the sender ends in success; a responder whose table was empty ends with one live
entry. -/
def Obligations.FullExchangeDeliversAndSucceeds : Prop :=
  ∀ (A B : State) (p : Bytes) (tA1 tA2 tA3 tB1 tB2 : Time) (c n1 n2 : Nonce),
    A.regs.phase = .idle → p.length ≤ 24 →
    (∀ j : Fin numSlots, live tB1 B.regs.slots[j] = true → B.regs.slots[j].chal ≠ c) →
    (∃ j : Fin numSlots, live tB1 B.regs.slots[j] = false) →
    (tB2 - tB1).toNat < 1000 →
    ∃ (A1 A2 A3 B1 B2 : State) (f1 f2 f3 f4 : Bytes),
      exec (.txSend p) { A with now := tA1, rnd := c } = .next A1 ∧ A1.emitted = [.txf f1] ∧
      exec (.rxFrame f1) { B with now := tB1, rnd := n1 } = .next B1 ∧ B1.rsp = some ⟨.ok, [2#8]⟩ ∧
        B1.emitted = [.txf f2] ∧
      exec (.rxFrame f2) { A1 with now := tA2, rnd := n2 } = .next A2 ∧ A2.rsp = some ⟨.ok, [4#8]⟩ ∧
        A2.emitted = [.txf f3] ∧
      exec (.rxFrame f3) { B1 with now := tB2 } = .next B2 ∧ B2.rsp = some ⟨.ok, [3#8]⟩ ∧
        B2.emitted = [.dlv p, .txf f4] ∧
      exec (.rxFrame f4) { A2 with now := tA3 } = .next A3 ∧ A3.rsp = some ⟨.ok, [5#8]⟩ ∧
      A3.regs.phase = .idle ∧ A3.regs.outcome = .success ∧
      ((∀ j : Fin numSlots, B.regs.slots[j].valid = false) → liveCount B2.regs.slots tB2 = 1)

/-! ### The whole machine -/

/-- R221: no operation traps: every instruction and every step ends, with a response for every instruction, and the
host's later inputs are still there to be taken. -/
def Obligations.EveryOperationEndsWithAResponse : Prop :=
  (∀ (i : Instr) (s : State), ∃ t : State, exec i s = .next t ∧ t.rsp.isSome = true ∧
    t.inputs = s.inputs ∧ t.now = s.now ∧ t.rnd = s.rnd) ∧
  ∀ s : State, ∃ t : State, step s = .next t ∧ t.inputs = s.inputs.tail

/-- R222, which the spec marks as derived: an operation that ends with a status other than `OK` emits nothing, takes
no draw and changes no register, but for the three exceptions the rule names; only `CRC.CHK` then has a result. -/
def Obligations.ErrorStatusMeansNoEffectButThree : Prop :=
  ∀ (i : Instr) (s t : State) (st : Status) (result : Bytes),
    exec i s = .next t → t.rsp = some ⟨st, result⟩ → st ≠ .ok →
    t.emitted = [] ∧ t.drew = false ∧
    ((t.regs = s.regs ∧ result = []) ∨
      (st = .eLen ∧ (∃ p, i = .txSend p) ∧ t.regs = { s.regs with outcome := .failure } ∧ result = []) ∨
      (st = .eTimeout ∧ i = .txTick ∧ t.regs = { s.regs with phase := .idle, outcome := .failure } ∧
        result = []) ∨
      ∃ k p, st = .eCksum ∧ i = .crcChk k p ∧ t.regs = { s.regs with acc := payloadCksum p } ∧
        result = [hi (payloadCksum p), lo (payloadCksum p)])

/-- 60_exceptions.md section 1: the code of each status, and the statuses that the table's column `returned by` lets
each operation return. -/
def Obligations.StatusesAreThoseOfTheTable : Prop :=
  (∀ st : Status, st.code.toNat =
    [Status.ok, .eOp, .eFmt, .eLen, .eAlign, .eSize, .eFit, .eCksum, .eFull, .eMiss, .eBusy, .eType, .eMsg, .eIdx,
      .eTimeout, .eNomatch].idxOf st) ∧
  (∀ (i : Instr) (s t : State), exec i s = .next t → ∃ st ∈ mayAnswer i, t.status = some st) ∧
  ∀ (b : Bytes) (e : DecodeError), decode .host b = .error e → e.status = .eOp ∨ e.status = .eFmt

/-- R41, R62: one step emits at most one frame, of 16 or 32 bytes, and at most one body, of at most 24 bytes, the body
first; the response, if there is one, comes after them; and the outputs of later steps come after those of earlier
ones. -/
def Obligations.EachStepEmitsAtMostOneBodyThenOneFrame : Prop :=
  (∀ s t : State, step s = .next t →
    EmissionsAllowed t.emitted ∧
    (t.outputs = [] ∨ ∃ r : Response, t.outputs = t.emitted.map .emission ++ [.response r])) ∧
  ∀ (first later : List HostInput) (s t : State), feed first s = .next t →
    outputTrace (first ++ later) s = outputTrace first s ++ outputTrace later t

/-- 20_memory.md R57: the reads change no register and emit nothing. -/
def Obligations.ReadsHaveNoSideEffects : Prop :=
  ∀ (i : Instr) (s t : State),
    i = .crcRead ∨ (∃ v, i = .camChk v) ∨ (∃ a, i = .camRd a) ∨ i = .camCnt ∨ i = .txStat ∨
      (∃ m, i = .frmEnc m) ∨ (∃ f, i = .frmDec f) →
    exec i s = .next t → t.regs = s.regs ∧ t.emitted = [] ∧ t.drew = false

/-- R37, R223: an operation depends on the registers and its sampled inputs only; the outputs of the operation before
and the commands after it have no influence. -/
def Obligations.OperationsDependOnRegistersAndInputsOnly : Prop :=
  ∀ (i : Instr) (s s' t : State), s'.regs = s.regs → s'.now = s.now → s'.rnd = s.rnd → exec i s = .next t →
    exec i s' = .next { t with inputs := s'.inputs }

/-- 10_state.md R40, R42: an operation that takes no draw does not depend on `RND`; only the operations the rule names
take one; and an operation that R42 does not mark as sampling `now` does not depend on it. -/
def Obligations.SampledInputsAreThoseOfTheAccessMatrix : Prop :=
  (∀ (i : Instr) (s t : State) (r : Nonce), exec i s = .next t → t.drew = false →
    exec i { s with rnd := r } = .next { t with rnd := r }) ∧
  (∀ (i : Instr) (s t : State), exec i s = .next t → t.drew = true →
    (∃ p, i = .txSend p) ∨ (∃ c, i = .camReq c) ∨ (∃ c, Receives i (.reqn c)) ∨ ∃ c n, Receives i (.nonce c n)) ∧
  ∀ (i : Instr) (s t : State) (now : Time), readsNow i = false → exec i s = .next t →
    exec i { s with now := now } = .next { t with now := now }

/-- R34 (b), (c), (d), (f), which the spec marks as derived: every step keeps the invariants of the registers. -/
def Obligations.RegisterInvariantsAreKeptByEveryStep : Prop :=
  ∀ s t : State, s.regs.Consistent → step s = .next t → t.regs.Consistent

/-- The invariants of R34 and of the ordered table hold after reset. -/
def Obligations.InvariantsHoldAtReset : Prop :=
  State.reset.regs.Consistent ∧
  ∀ now : Time, TableOrdered now State.reset.regs.slots ∧ LiveChallengesDistinct now State.reset.regs.slots

/-! ### Encoding -/

/-- R71, R72, R77 to R80: decoding the encoding of a well-formed instruction gives it back, in its space. -/
def Obligations.DecodingAnEncodedInstructionGivesItBack : Prop :=
  ∀ i : Instr, i.WellFormed → decode i.space (encode i) = .ok i

/-- R71, R72, R77 to R80: bytes that decode to an instruction are its encoding, it is well-formed, and it belongs to
the space they were decoded in; so no two byte strings of a space mean the same instruction. -/
def Obligations.DecodedBytesAreTheEncoding : Prop :=
  ∀ (sp : Space) (b : Bytes) (i : Instr), decode sp b = .ok i →
    i.space = sp ∧ i.WellFormed ∧ encode i = b

/-- 95_test_vectors.md: records and messages written out from the spec decode to what they stand for. -/
def Obligations.WordsOfTheSpecDecode : Prop :=
  decode .host [0x30#8, 0x12#8, 0x34#8] = .ok (.camReq 0x1234#16) ∧
  decode .host [0x14#8, 0x02#8, 0x1D#8, 0x03#8, 0x01#8, 0x12#8, 0x34#8] =
    .ok (.crcChk 0x021D#16 [0x01#8, 0x12#8, 0x34#8]) ∧
  decode .host [0x40#8, 0x02#8, 0xAA#8, 0xBB#8] = .ok (.txSend [0xAA#8, 0xBB#8]) ∧
  decode .wire [0x02#8, 0x12#8, 0x34#8, 0xBE#8, 0xEF#8] = .ok (.nonce 0x1234#16 0xBEEF#16) ∧
  decode .wire [0x03#8, 0xBE#8, 0xEF#8, 0xCA#8, 0xFE#8, 0xAA#8, 0xBB#8] =
    .ok (.data 0xBEEF#16 0xCAFE#16 [0xAA#8, 0xBB#8])
end

