-- ==== Sys2Proof/Laws/State.lean ====
section
/-! SUPPORT. One lemma per field per update of the state and of the registers, and the parameters as numerals, so
that no later proof unfolds a record update or the configuration. -/

namespace Sys2Proof

/-! ### Parameters -/

@[simp] theorem config_ckInit : config.ckInit = 0x1021#16 := rfl
@[simp] theorem config_ckW : config.ckW = 16 := rfl
@[simp] theorem config_tsW : config.tsW = 32 := rfl
@[simp] theorem config_nonceW : config.nonceW = 16 := rfl
@[simp] theorem config_slots : config.slots = 5 := rfl
@[simp] theorem config_maxPayload : config.maxPayload = 29 := rfl
@[simp] theorem config_smallMax : config.smallMax = 13 := rfl
@[simp] theorem config_block : config.block = 16 := rfl
@[simp] theorem config_maxFrame : config.maxFrame = 32 := rfl
@[simp] theorem config_maxBody : config.maxBody = 24 := rfl
@[simp] theorem config_retries : config.retries = 20 := rfl
@[simp] theorem config_sendInterval : config.sendInterval = 50 := rfl
@[simp] theorem config_ttl : config.ttl = 1000 := rfl
@[simp] theorem config_tReqn : config.tReqn = 1#8 := rfl
@[simp] theorem config_tNonce : config.tNonce = 2#8 := rfl
@[simp] theorem config_tData : config.tData = 3#8 := rfl
@[simp] theorem config_tAck : config.tAck = 4#8 := rfl
@[simp] theorem config_pad : config.pad = 0#8 := rfl

/-- With counts of 1 ms a duration in milliseconds is its number of counts. -/
@[simp] theorem config_counts (ms : Nat) : config.counts ms = ms := Nat.div_one ms

/-- The parameters meet the constraints of R8. -/
theorem config_admissible : config.Admissible := by decide

end Sys2Proof

namespace Sys2Proof.Machine

/-! ### `State.finish` -/

section finish
variable (s : State) (e : Effect)

@[simp] theorem State.finish_regs : (s.finish e).regs = e.regs := rfl
@[simp] theorem State.finish_inputs : (s.finish e).inputs = s.inputs := rfl
@[simp] theorem State.finish_now : (s.finish e).now = s.now := rfl
@[simp] theorem State.finish_rnd : (s.finish e).rnd = s.rnd := rfl
@[simp] theorem State.finish_outputs : (s.finish e).outputs = e.outputs := rfl
@[simp] theorem State.finish_drew : (s.finish e).drew = e.drew := rfl

/-- The emissions among an operation's outputs are its emissions. -/
@[simp] theorem State.finish_emitted : (s.finish e).emitted = e.emitted := by
  have h : (Output.emission? ∘ Output.emission) = some := rfl
  simp [State.emitted, Effect.outputs, List.filterMap_append, List.filterMap_map, h, Output.emission?]

/-- The response among an operation's outputs is its response. -/
@[simp] theorem State.finish_rsp : (s.finish e).rsp = some ⟨e.status, e.result⟩ := by
  have h : ∀ l : List Emission, (l.map Output.emission).findSome? Output.response? = none := fun l => by
    simp [List.findSome?_eq_none_iff, Output.response?]
  simp [State.rsp, Effect.outputs, List.findSome?_append, h, Output.response?]

@[simp] theorem State.finish_status : (s.finish e).status = some e.status := by simp [State.status]

theorem State.complete_eq : s.complete e = .next (s.finish e) := rfl

theorem State.reject_eq (st : Status) : s.reject st = .next (s.finish ⟨s.regs, st, [], [], false⟩) := rfl

/-- Ending an operation answers the finished state and nothing else. -/
@[simp] theorem State.complete_next_iff (t : State) : s.complete e = .next t ↔ t = s.finish e := by
  rw [State.complete_eq, Host.Outcome.next.injEq, eq_comm]

/-- A refusal answers the state with its registers unchanged and nothing emitted. -/
@[simp] theorem State.reject_next_iff (st : Status) (t : State) :
    s.reject st = .next t ↔ t = s.finish ⟨s.regs, st, [], [], false⟩ :=
  State.complete_next_iff s _ t

end finish

/-! ### `State.idle`, `State.hardReset` -/

section ports
variable (s : State)

@[simp] theorem State.idle_regs : s.idle.regs = s.regs := rfl
@[simp] theorem State.idle_inputs : s.idle.inputs = s.inputs := rfl
@[simp] theorem State.idle_now : s.idle.now = s.now := rfl
@[simp] theorem State.idle_rnd : s.idle.rnd = s.rnd := rfl
@[simp] theorem State.idle_outputs : s.idle.outputs = [] := rfl
@[simp] theorem State.idle_rsp : s.idle.rsp = none := rfl
@[simp] theorem State.idle_emitted : s.idle.emitted = [] := rfl
@[simp] theorem State.idle_drew : s.idle.drew = false := rfl

@[simp] theorem State.hardReset_regs : s.hardReset.regs = Regs.reset := rfl
@[simp] theorem State.hardReset_inputs : s.hardReset.inputs = s.inputs := rfl
@[simp] theorem State.hardReset_now : s.hardReset.now = s.now := rfl
@[simp] theorem State.hardReset_rnd : s.hardReset.rnd = s.rnd := rfl
@[simp] theorem State.hardReset_outputs : s.hardReset.outputs = [] := rfl
@[simp] theorem State.hardReset_rsp : s.hardReset.rsp = none := rfl
@[simp] theorem State.hardReset_emitted : s.hardReset.emitted = [] := rfl
@[simp] theorem State.hardReset_drew : s.hardReset.drew = false := rfl

end ports

/-! ### `Regs.startPhase`, `Regs.countRetransmission` -/

section regs
variable (r : Regs) (now : Time)

@[simp] theorem Regs.startPhase_acc : (r.startPhase now).acc = r.acc := rfl
@[simp] theorem Regs.startPhase_phase : (r.startPhase now).phase = r.phase := rfl
@[simp] theorem Regs.startPhase_outcome : (r.startPhase now).outcome = r.outcome := rfl
@[simp] theorem Regs.startPhase_retriesLeft : (r.startPhase now).retriesLeft = 19#8 := rfl
@[simp] theorem Regs.startPhase_nextAt : (r.startPhase now).nextAt = now + 50#32 := rfl
@[simp] theorem Regs.startPhase_chal : (r.startPhase now).chal = r.chal := rfl
@[simp] theorem Regs.startPhase_issued : (r.startPhase now).issued = r.issued := rfl
@[simp] theorem Regs.startPhase_corr : (r.startPhase now).corr = r.corr := rfl
@[simp] theorem Regs.startPhase_bodyLen : (r.startPhase now).bodyLen = r.bodyLen := rfl
@[simp] theorem Regs.startPhase_body : (r.startPhase now).body = r.body := rfl
@[simp] theorem Regs.startPhase_slots : (r.startPhase now).slots = r.slots := rfl

@[simp] theorem Regs.countRetransmission_acc : (r.countRetransmission now).acc = r.acc := rfl
@[simp] theorem Regs.countRetransmission_phase : (r.countRetransmission now).phase = r.phase := rfl
@[simp] theorem Regs.countRetransmission_outcome : (r.countRetransmission now).outcome = r.outcome := rfl
@[simp] theorem Regs.countRetransmission_retriesLeft :
    (r.countRetransmission now).retriesLeft = r.retriesLeft - 1#8 := rfl
@[simp] theorem Regs.countRetransmission_nextAt : (r.countRetransmission now).nextAt = now + 50#32 := rfl
@[simp] theorem Regs.countRetransmission_chal : (r.countRetransmission now).chal = r.chal := rfl
@[simp] theorem Regs.countRetransmission_issued : (r.countRetransmission now).issued = r.issued := rfl
@[simp] theorem Regs.countRetransmission_corr : (r.countRetransmission now).corr = r.corr := rfl
@[simp] theorem Regs.countRetransmission_bodyLen : (r.countRetransmission now).bodyLen = r.bodyLen := rfl
@[simp] theorem Regs.countRetransmission_body : (r.countRetransmission now).body = r.body := rfl
@[simp] theorem Regs.countRetransmission_slots : (r.countRetransmission now).slots = r.slots := rfl

/-- Each slot after reset. -/
@[simp] theorem Regs.reset_slot (i : Fin numSlots) : Regs.reset.slots[i] = Slot.reset := by
  simp [Regs.reset]

end regs

end Sys2Proof.Machine
end

