-- ==== Sys2Proof/Laws/Bytes.lean ====
section
/-! SUPPORT. The byte-order helpers (spec/30_encoding.md R82) and the opcode map, each with the lemma that says what
it does. -/

namespace Sys2Proof

@[simp] theorem be16_hi_lo (v : Word16) : be16 (hi v) (lo v) = v := by
  apply BitVec.eq_of_getLsbD_eq
  intro i h
  simp only [be16, hi, lo, BitVec.getLsbD_append, BitVec.getLsbD_extractLsb']
  by_cases h8 : i < 8
  · simp [h8]
  · have : i - 8 < 8 := by omega
    simp [h8, this, show 8 + (i - 8) = i by omega]

@[simp] theorem hi_be16 (h l : Byte) : hi (be16 h l) = h := by
  apply BitVec.eq_of_getLsbD_eq
  intro i hi8
  simp only [be16, hi, BitVec.getLsbD_extractLsb', BitVec.getLsbD_append]
  simp [hi8]

@[simp] theorem lo_be16 (h l : Byte) : lo (be16 h l) = l := by
  apply BitVec.eq_of_getLsbD_eq
  intro i hi8
  simp only [be16, lo, BitVec.getLsbD_extractLsb', BitVec.getLsbD_append]
  simp [hi8]

/-- `be16(h, l) = 256 x h + l` (R10). -/
theorem be16_toNat (h l : Byte) : (be16 h l).toNat = 256 * h.toNat + l.toNat := by
  have hl := l.isLt
  simp only [be16, BitVec.toNat_append]
  rw [← Nat.shiftLeft_add_eq_or_of_lt hl, Nat.shiftLeft_eq]
  omega

/-- A `DATA` has an encoding exactly where its body fits (R79). -/
theorem wellFormed_data_iff {i k : Nonce} {b : Bytes} : (Instr.data i k b).WellFormed ↔ b.length ≤ 24 := by
  rw [Instr.WellFormed, Instr.wellFormed, decide_eq_true_eq, config_maxBody]

/-- The count byte of a string that has one (R71). -/
theorem countByte_toNat {p : Bytes} (h : Countable p) : (countByte p).toNat = p.length := by
  simp only [countByte, BitVec.toNat_ofNat]
  exact Nat.mod_eq_of_lt (by have : p.length ≤ 255 := h; omega)

/-- A count byte that names a string's length is its count byte. -/
theorem countByte_eq {p : Bytes} {n : Byte} (h : p.length = n.toNat) : countByte p = n := by
  simp [countByte, h]

/-- Any opcode with a layout is one of the sixteen of R72, with its row. -/
theorem opcodeLayout_cases {op : Byte} {l : Layout} (h : opcodeLayout op = some l) :
    (op = 0x00#8 ∧ l = .c0 .sysReset) ∨ (op = 0x10#8 ∧ l = .c0 .crcInit) ∨
    (op = 0x11#8 ∧ l = .c1 .crcByte) ∨ (op = 0x12#8 ∧ l = .c0 .crcRead) ∨
    (op = 0x13#8 ∧ l = .cv .crcGen) ∨ (op = 0x14#8 ∧ l = .ck .crcChk) ∨
    (op = 0x20#8 ∧ l = .cv .frmEnc) ∨ (op = 0x21#8 ∧ l = .cv .frmDec) ∨
    (op = 0x30#8 ∧ l = .c2 .camReq) ∨ (op = 0x31#8 ∧ l = .c2 .camChk) ∨
    (op = 0x32#8 ∧ l = .c1 .camRd) ∨ (op = 0x33#8 ∧ l = .c0 .camCnt) ∨
    (op = 0x40#8 ∧ l = .cv .txSend) ∨ (op = 0x41#8 ∧ l = .c0 .txTick) ∨
    (op = 0x42#8 ∧ l = .c0 .txStat) ∨ (op = 0x50#8 ∧ l = .cv .rxFrame) := by
  have key : ∀ k : Nat, op.toNat = k → op = BitVec.ofNat 8 k := fun k hk => by
    rw [← hk, BitVec.ofNat_toNat, BitVec.setWidth_eq]
  unfold opcodeLayout at h
  split at h <;> first | (cases h; done) | (rename_i hk; cases h; simp [key _ hk])

/-- What the operands of a format can be (R71): the format and the shape of the bytes. -/
theorem Layout.operands_ok {l : Layout} {b : Bytes} {i : Instr} (h : l.operands b = .ok i) :
    (l = .c0 i ∧ b = []) ∨
    (∃ f a, l = .c1 f ∧ b = [a] ∧ i = f a) ∨
    (∃ f x y, l = .c2 f ∧ b = [x, y] ∧ i = f (be16 x y)) ∨
    (∃ f n p, l = .cv f ∧ b = n :: p ∧ p.length = n.toNat ∧ i = f p) ∨
    (∃ f x y n p, l = .ck f ∧ b = x :: y :: n :: p ∧ p.length = n.toNat ∧ i = f (be16 x y) p) := by
  unfold Layout.operands at h
  split at h
  · cases h; simp
  · cases h
  · cases h; simp
  · cases h
  · cases h; simp
  · cases h
  · split at h
    · cases h; simp_all
    · cases h
  · cases h
  · split at h
    · cases h; simp_all
    · cases h
  · cases h

/-- What a decoded message is: its type byte, its length and its fields (R76 to R80). -/
theorem decodeMessage_ok {m : Bytes} {msg : Message} (h : decodeMessage m = .ok msg) :
    (∃ a b, m = [1#8, a, b] ∧ msg = .reqn (be16 a b)) ∨
    (∃ a b c d, m = [2#8, a, b, c, d] ∧ msg = .nonce (be16 a b) (be16 c d)) ∨
    (∃ a b c d p, m = 3#8 :: a :: b :: c :: d :: p ∧ p.length ≤ 24 ∧
      msg = .data (be16 a b) (be16 c d) p) ∨
    (∃ a b, m = [4#8, a, b] ∧ msg = .ack (be16 a b)) := by
  unfold decodeMessage at h
  split at h
  · cases h
  · split at h
    · subst_vars
      split at h <;> cases h
      exact .inl ⟨_, _, rfl, rfl⟩
    · split at h
      · subst_vars
        split at h <;> cases h
        exact .inr (.inl ⟨_, _, _, _, rfl, rfl⟩)
      · split at h
        · subst_vars
          split at h
          · split at h
            · cases h
              exact .inr (.inr (.inl ⟨_, _, _, _, _, rfl, by simpa using ‹_›, rfl⟩))
            · cases h
          · cases h
        · split at h
          · subst_vars
            split at h <;> cases h
            exact .inr (.inr (.inr ⟨_, _, rfl, rfl⟩))
          · cases h

end Sys2Proof
end

