-- ==== Sys2Proof/Laws/Cam.lean ====
section
/-! SUPPORT. The CAM (spec/42_cam.md): a scan finds the lowest index, and what `cam_request` and `cam_check` can do,
each said once. -/

namespace Sys2Proof.Machine

/-- A scan that finds a slot finds the lowest that meets the test (R141, R142). -/
theorem firstSlot_eq_some {test : Slot → Bool} {slots : Vector Slot numSlots} {i : Fin numSlots} :
    firstSlot test slots = some i ↔
      test slots[i] = true ∧ ∀ j : Fin numSlots, j < i → test slots[j] = false := by
  rw [firstSlot, List.find?_eq_some_iff_getElem]
  constructor
  · rintro ⟨hi, k, hk, rfl, hlt⟩
    refine ⟨hi, fun j hj => ?_⟩
    have hjk : j.val < k := by simpa [Fin.lt_def] using hj
    simpa using hlt j.val hjk
  · rintro ⟨hi, hlt⟩
    refine ⟨hi, i.val, by simp, by simp, fun j hj => ?_⟩
    simpa using hlt ⟨j, by omega⟩ hj

/-- A scan finds nothing exactly where no slot meets the test. -/
theorem firstSlot_eq_none {test : Slot → Bool} {slots : Vector Slot numSlots} :
    firstSlot test slots = none ↔ ∀ j : Fin numSlots, test slots[j] = false := by
  simp [firstSlot, List.find?_eq_none]

/-- A live slot is valid and younger than `TTL` (R140). -/
theorem live_iff {now : Time} {e : Slot} :
    live now e = true ↔ e.valid = true ∧ (now - e.t).toNat < 1000 := by
  rw [live, Bool.and_eq_true, decide_eq_true_eq, config_counts, config_ttl]

/-- A slot after reset is live at no time (R24). -/
@[simp] theorem live_reset (now : Time) : live now Slot.reset = false := by simp [live, Slot.reset]

/-- What `cam_request` can do (R141): reuse the lowest live match and write nothing, write the lowest dead slot
where no live slot matches, or find the table full. -/
theorem camRequest_cases (slots : Vector Slot numSlots) (c : Nonce) (now : Time) (rnd : Nonce) :
    (∃ i : Fin numSlots, camRequest slots c now rnd = (.reused slots[i].iss i, slots) ∧
      live now slots[i] = true ∧ slots[i].chal = c ∧
      ∀ j : Fin numSlots, j < i → live now slots[j] = true → slots[j].chal ≠ c) ∨
    (∃ i : Fin numSlots,
      camRequest slots c now rnd = (.allocated rnd i, slots.set i ⟨true, c, rnd, now, .requestNonce⟩) ∧
      (∀ j : Fin numSlots, live now slots[j] = true → slots[j].chal ≠ c) ∧
      live now slots[i] = false ∧ ∀ j : Fin numSlots, j < i → live now slots[j] = true) ∨
    (camRequest slots c now rnd = (.full, slots) ∧
      ∀ j : Fin numSlots, live now slots[j] = true ∧ slots[j].chal ≠ c) := by
  cases hm : firstSlot (fun e => live now e && decide (e.chal = c)) slots with
  | some i =>
    refine .inl ⟨i, by simp [camRequest, hm], ?_⟩
    obtain ⟨h1, h2⟩ := firstSlot_eq_some.mp hm
    simp only [Bool.and_eq_true, decide_eq_true_eq] at h1
    exact ⟨h1.1, h1.2, fun j hj => by simpa using h2 j hj⟩
  | none =>
    have hno : ∀ j : Fin numSlots, live now slots[j] = true → slots[j].chal ≠ c := fun j => by
      simpa using firstSlot_eq_none.mp hm j
    cases hd : firstSlot (fun e => !live now e) slots with
    | some i =>
      obtain ⟨h1, h2⟩ := firstSlot_eq_some.mp hd
      exact .inr (.inl ⟨i, by simp [camRequest, hm, hd], hno, by simpa using h1,
        fun j hj => by simpa using h2 j hj⟩)
    | none =>
      have hl : ∀ j : Fin numSlots, live now slots[j] = true := fun j => by
        simpa using firstSlot_eq_none.mp hd j
      exact .inr (.inr ⟨by simp [camRequest, hm, hd], fun j => ⟨hl j, hno j (hl j)⟩⟩)

/-- A hit of `cam_check` is the lowest live slot with that issued nonce (R142). -/
theorem camCheck_eq_some {slots : Vector Slot numSlots} {v : Nonce} {now : Time} {i : Fin numSlots} :
    camCheck slots v now = some i ↔
      (live now slots[i] = true ∧ slots[i].iss = v) ∧
      ∀ j : Fin numSlots, j < i → live now slots[j] = true → slots[j].iss ≠ v := by
  have hk : ∀ k : Kind, k = .requestNonce := fun k => by cases k; rfl
  simp only [camCheck, firstSlot_eq_some, hk, decide_true, Bool.and_true, Bool.and_eq_true,
    decide_eq_true_eq, Bool.and_eq_false_imp, decide_eq_false_iff_not, ne_eq]

/-- A miss of `cam_check`: no live slot holds the nonce (R142). -/
theorem camCheck_eq_none {slots : Vector Slot numSlots} {v : Nonce} {now : Time} :
    camCheck slots v now = none ↔ ∀ j : Fin numSlots, live now slots[j] = true → slots[j].iss ≠ v := by
  have hk : ∀ k : Kind, k = .requestNonce := fun k => by cases k; rfl
  simp only [camCheck, firstSlot_eq_none, hk, decide_true, Bool.and_true, Bool.and_eq_false_imp,
    decide_eq_false_iff_not, ne_eq]

end Sys2Proof.Machine
end

