-- ==== Sys2Proof/Laws/Checksum.lean ====
section
/-! SUPPORT. The checksum (spec/40_crc.md): the bits of one step, the fold, and the frame's checksum. -/

namespace Sys2Proof.Machine

/-- The bits of a step: bit 15 comes round to bit 0, the others move up, and the byte enters bits 7 to 0
(R100). -/
theorem ckStep_getLsbD (acc : Cksum) (b : Byte) (i : Nat) (h : i < 16) :
    (ckStep acc b).getLsbD i = ((if i = 0 then acc.getLsbD 15 else acc.getLsbD (i - 1)) ^^ b.getLsbD i) := by
  have hm : acc.msb = acc.getLsbD 15 := by simp [BitVec.msb_eq_getLsbD_last]
  have hb : (b.setWidth 16).getLsbD i = b.getLsbD i := by simp [h]
  simp only [ckStep, BitVec.getLsbD_xor, hb, hm]
  congr 1
  by_cases h0 : i = 0
  · subst h0
    cases h15 : acc.getLsbD 15 <;> simp
  · have hi1 : (1#16).getLsbD i = false := by simp [BitVec.getLsbD_one, h0]
    have hs : (acc <<< 1).getLsbD i = acc.getLsbD (i - 1) := by
      rw [BitVec.getLsbD_shiftLeft]
      simp [h, show ¬ i < 1 by omega]
    cases acc.getLsbD 15 <;> simp [hi1, hs, h0, BitVec.getLsbD_or]

theorem cksum_nil : cksum [] = 0x1021#16 := rfl

theorem cksum_concat (s : Bytes) (b : Byte) : cksum (s ++ [b]) = ckStep (cksum s) b := by
  simp [cksum]

/-- The checksum continued over a second string. -/
theorem cksum_append (s t : Bytes) : cksum (s ++ t) = t.foldl ckStep (cksum s) := by
  simp [cksum]

/-- The checksum of a frame covers the length byte first (R101). -/
theorem payloadCksum_eq (p : Bytes) : payloadCksum p = cksum (BitVec.ofNat 8 p.length :: p) := rfl

end Sys2Proof.Machine
end

