-- ==== Sys2Proof/Laws/Frame.lean ====
section
/-! SUPPORT. The frame codec (spec/41_frame.md): the size of a frame, and what an accepted or a rejected frame is. -/

namespace Sys2Proof.Machine

/-- A checksum and the value of two bytes are compared as numbers, which at `CK_W` = 16 is to compare them (R121). -/
theorem cksum_toNat_eq_iff {s : Bytes} {h l : Byte} :
    (cksum s).toNat = (be16 h l).toNat ↔ cksum s = be16 h l := BitVec.toNat_inj

theorem frameSize_small {n : Nat} (h : n ≤ 13) : frameSize n = 16 := by simp [frameSize, h]

theorem frameSize_large {n : Nat} (h : 13 < n) : frameSize n = 32 := by
  simp [frameSize, Nat.not_le.mpr h]

/-- A frame with a legal payload has the size its length gives it (R75). -/
theorem frameEncode_length {m : Bytes} (h : m.length ≤ 29) :
    (frameEncode m).length = frameSize m.length := by
  have : 3 + m.length ≤ frameSize m.length := by
    unfold frameSize
    split <;> simp_all <;> omega
  simp only [frameEncode, List.length_append, List.length_cons, List.length_nil, List.length_replicate]
  omega

/-- A frame with a legal payload is one or two blocks (R55). -/
theorem frameEncode_sized {m : Bytes} (h : m.length ≤ 29) : FrameSized (frameEncode m) := by
  rw [FrameSized, frameEncode_length h]
  by_cases h13 : m.length ≤ 13
  · exact .inl (frameSize_small h13)
  · exact .inr (frameSize_large (Nat.not_le.mp h13))

/-- The five checks on a buffer of at least three bytes, in terms of its checksum, length byte and rest (R121). -/
theorem frameDecode_cons (c0 c1 n : Byte) (rest : Bytes) :
    frameDecode (c0 :: c1 :: n :: rest) =
      if (rest.length + 3) % 16 ≠ 0 then .error .eAlign
      else if 32 < rest.length + 3 then .error .eSize
      else if 29 < n.toNat then .error .eLen
      else if rest.length < n.toNat then .error .eFit
      else if cksum (n :: rest.take n.toNat) ≠ be16 c0 c1 then .error .eCksum
      else .ok (rest.take n.toNat) := by
  have hlen : rest.length + 1 + 1 + 1 = rest.length + 3 := rfl
  have hsize : (rest.length + 3 = 0 ∨ 32 < rest.length + 3) = (32 < rest.length + 3) := by
    apply propext; omega
  have hfit : (rest.length + 3 < 3 + n.toNat) = (rest.length < n.toNat) := by apply propext; omega
  simp only [frameDecode, List.getD_cons_succ, List.getD_cons_zero, List.drop_succ_cons, List.drop_zero,
    List.length_cons, Nat.add_comm 1, List.take_succ_cons, hlen, hsize, hfit, ne_eq, cksum_toNat_eq_iff]

/-- The checks of an accepted frame, all passed, and its message (R121). -/
theorem frameDecode_ok {f m : Bytes} (h : frameDecode f = .ok m) :
    (f.length = 16 ∨ f.length = 32) ∧
    ∃ c0 c1 n rest, f = c0 :: c1 :: n :: rest ∧ n.toNat ≤ 29 ∧ 3 + n.toNat ≤ f.length ∧
      cksum (n :: m) = be16 c0 c1 ∧ m = rest.take n.toNat ∧ m.length = n.toNat := by
  match f with
  | [] => simp [frameDecode] at h
  | [a] => simp [frameDecode] at h
  | [a, b] => simp [frameDecode] at h
  | c0 :: c1 :: n :: rest =>
    rw [frameDecode_cons] at h
    by_cases h1 : (rest.length + 3) % 16 ≠ 0
    · rw [if_pos h1] at h; cases h
    by_cases h2 : 32 < rest.length + 3
    · rw [if_neg h1, if_pos h2] at h; cases h
    by_cases h3 : 29 < n.toNat
    · rw [if_neg h1, if_neg h2, if_pos h3] at h; cases h
    by_cases h4 : rest.length < n.toNat
    · rw [if_neg h1, if_neg h2, if_neg h3, if_pos h4] at h; cases h
    by_cases h5 : cksum (n :: rest.take n.toNat) ≠ be16 c0 c1
    · rw [if_neg h1, if_neg h2, if_neg h3, if_neg h4, if_pos h5] at h; cases h
    rw [if_neg h1, if_neg h2, if_neg h3, if_neg h4, if_neg h5] at h
    have hm : rest.take n.toNat = m := by simpa using h
    have hlen : m.length = n.toNat := by rw [← hm, List.length_take]; omega
    refine ⟨?_, c0, c1, n, rest, rfl, by omega, ?_, ?_, hm.symm, hlen⟩
    · simp only [List.length_cons]; omega
    · simp only [List.length_cons]; omega
    · rw [← hm]; exact not_not.mp h5

/-- The message of an accepted frame has at most 29 bytes. -/
theorem frameDecode_ok_length {f m : Bytes} (h : frameDecode f = .ok m) : m.length ≤ 29 := by
  obtain ⟨-, _, _, n, _, -, hn, -, -, -, hm⟩ := frameDecode_ok h
  omega

/-- The statuses a rejected frame can have (R121). -/
theorem frameDecode_error {f : Bytes} {st : Status} (h : frameDecode f = .error st) :
    st = .eAlign ∨ st = .eSize ∨ st = .eLen ∨ st = .eFit ∨ st = .eCksum := by
  simp only [frameDecode] at h
  by_cases h1 : f.length % config.block ≠ 0
  · rw [if_pos h1] at h; cases h; simp
  rw [if_neg h1] at h
  by_cases h2 : f.length = 0 ∨ config.maxFrame < f.length
  · rw [if_pos h2] at h; cases h; simp
  rw [if_neg h2] at h
  by_cases h3 : config.maxPayload < (f.getD 2 0#8).toNat
  · rw [if_pos h3] at h; cases h; simp
  rw [if_neg h3] at h
  by_cases h4 : f.length < 3 + (f.getD 2 0#8).toNat
  · rw [if_pos h4] at h; cases h; simp
  rw [if_neg h4] at h
  by_cases h5 :
    (cksum ((f.drop 2).take (1 + (f.getD 2 0#8).toNat))).toNat ≠ (be16 (f.getD 0 0#8) (f.getD 1 0#8)).toNat
  · rw [if_pos h5] at h; cases h; simp
  rw [if_neg h5] at h
  cases h

end Sys2Proof.Machine
end

