-- ==== Sys2Proof/Laws/Exec.lean ====
section
/-! SUPPORT. The body store, reception and fetching: what each shared operation can do, said once. -/

namespace Sys2Proof.Machine

/-! ### Body store (R33) -/

@[simp] theorem writeBody_getElem (p : Bytes) (body : Vector Byte bodyCapacity) (k : Nat) (h : k < bodyCapacity) :
    (writeBody p body)[k] = p.getD k body[k] := by
  simp [writeBody]

/-- The stored body never exceeds the store. -/
theorem Regs.storedBody_length_le (r : Regs) : r.storedBody.length ≤ 24 := by
  simp only [Regs.storedBody, List.length_take, Vector.length_toList]
  exact Nat.min_le_right _ _

/-- A body that fits, once written with its length, is what is read back (R33, R162). -/
theorem storedBody_of_write (r : Regs) {p : Bytes} (h : p.length ≤ 24)
    (hb : ∃ old, r.body = writeBody p old) (hl : r.bodyLen = BitVec.ofNat 5 p.length) : r.storedBody = p := by
  obtain ⟨old, hb⟩ := hb
  have hn : r.bodyLen.toNat = p.length := by
    rw [hl, BitVec.toNat_ofNat]
    exact Nat.mod_eq_of_lt (by omega)
  apply List.ext_getElem
  · simp [Regs.storedBody, hn, h]
  · intro k h1 h2
    have hk : k < bodyCapacity := Nat.lt_of_lt_of_le h2 h
    have hw : (writeBody p old)[k] = p[k] := by
      rw [writeBody_getElem, List.getD_eq_getElem p _ h2]
    simpa [Regs.storedBody, hb] using hw

/-- The session's `DATA` fits a frame. -/
theorem sessionData_length_le (r : Regs) : (encodeMessage r.sessionData).length ≤ 29 := by
  have := r.storedBody_length_le
  simp only [Regs.sessionData, encodeMessage, List.length_append, List.length_cons, List.length_nil]
  omega

/-! ### Reception (R190, R191) -/

/-- The message an `RX.FRAME` carries comes from an accepted frame. -/
theorem carriedMessage_eq_some {f : Bytes} {msg : Message} :
    carriedMessage f = some msg ↔ ∃ m, frameDecode f = .ok m ∧ decodeMessage m = .ok msg := by
  unfold carriedMessage
  cases frameDecode f with
  | error e => simp
  | ok m => cases hd : decodeMessage m <;> simp [hd]

/-- What `RX.FRAME` can do: refuse the frame, refuse the message, or receive the message it carries. -/
theorem execRxFrame_cases (f : Bytes) (s : State) :
    (∃ st, frameDecode f = .error st ∧ exec (.rxFrame f) s = s.reject st) ∨
    (∃ m e, frameDecode f = .ok m ∧ decodeMessage m = .error e ∧ exec (.rxFrame f) s = s.reject e.status) ∨
    ∃ msg, carriedMessage f = some msg ∧ exec (.rxFrame f) s = exec msg.toInstr s := by
  cases hf : frameDecode f with
  | error st => exact .inl ⟨st, rfl, by simp [exec, execRxFrame, hf]⟩
  | ok m =>
    cases hm : decodeMessage m with
    | error e => exact .inr (.inl ⟨m, e, rfl, hm, by simp [exec, execRxFrame, hf, dispatch, hm]⟩)
    | ok msg =>
      refine .inr (.inr ⟨msg, carriedMessage_eq_some.mpr ⟨m, hf, hm⟩, ?_⟩)
      cases msg <;> simp [exec, execRxFrame, hf, dispatch, hm, Message.toInstr]

/-- The statuses of a message that is not received. -/
theorem decodeMessage_error_status {m : Bytes} {e : DecodeError} (h : decodeMessage m = .error e) :
    e.status = .eType ∨ e.status = .eMsg := by
  unfold decodeMessage at h
  repeat' split at h
  all_goals first | (cases h; done) | (cases h; simp [DecodeError.status])

/-! ### Fetching (R38 to R40) -/

variable {s : State} {rest : List HostInput}

theorem fetch_nothing (h : s.inputs = []) : s.fetch = (.nothing, s) := by simp [State.fetch, h]

theorem fetch_reset (h : s.inputs = .reset :: rest) : s.fetch = (.reset, { s with inputs := rest }) := by
  simp [State.fetch, h]

theorem fetch_command {record : Bytes} {now : Time} {rnd : Nonce} {i : Instr}
    (h : s.inputs = .command record now rnd :: rest) (hd : decodeCommand record = .ok i) :
    s.fetch = (.command i, { s with inputs := rest, now := now, rnd := rnd }) := by
  simp [State.fetch, h, hd]

theorem fetch_badRecord {record : Bytes} {now : Time} {rnd : Nonce} {e : DecodeError}
    (h : s.inputs = .command record now rnd :: rest) (hd : decodeCommand record = .error e) :
    s.fetch = (.badRecord e, { s with inputs := rest, now := now, rnd := rnd }) := by
  simp [State.fetch, h, hd]

end Sys2Proof.Machine
end

