-- ==== Sys2Proof/Laws/PerInstr.lean ====
section
/-! SUPPORT. Statements about every instruction as syntax, one lemma per constructor of `Instr`. -/

namespace Sys2Proof.Laws.EncodeShape

open Sys2Proof

/-- The encoding of an instruction begins with the opcode or type byte of its space, and the other space has no
such byte (R70, R72, R76); where the instruction is well-formed its record is no longer than the longest format
(R71). -/
def Statement (i : Instr) : Prop :=
  tableSpace (encode i) = i.space ∧
  ((encode i).head?.bind opcodeLayout).isSome = decide (i.space = .host) ∧
  (i.WellFormed → (encode i).length ≤ 259)

theorem sysReset : Statement .sysReset := ⟨rfl, rfl, by simp [encode]⟩
theorem crcInit : Statement .crcInit := ⟨rfl, rfl, by simp [encode]⟩
theorem crcByte (a : Byte) : Statement (.crcByte a) := ⟨rfl, rfl, by simp [encode]⟩
theorem crcRead : Statement .crcRead := ⟨rfl, rfl, by simp [encode]⟩
theorem crcGen (p : Bytes) : Statement (.crcGen p) :=
  ⟨rfl, rfl, by simp [encode, Instr.WellFormed, Instr.wellFormed]; omega⟩
theorem crcChk (k : Cksum) (p : Bytes) : Statement (.crcChk k p) :=
  ⟨rfl, rfl, by simp [encode, Instr.WellFormed, Instr.wellFormed]; omega⟩
theorem frmEnc (m : Bytes) : Statement (.frmEnc m) :=
  ⟨rfl, rfl, by simp [encode, Instr.WellFormed, Instr.wellFormed]; omega⟩
theorem frmDec (f : Bytes) : Statement (.frmDec f) :=
  ⟨rfl, rfl, by simp [encode, Instr.WellFormed, Instr.wellFormed]; omega⟩
theorem camReq (v : Nonce) : Statement (.camReq v) := ⟨rfl, rfl, by simp [encode]⟩
theorem camChk (v : Nonce) : Statement (.camChk v) := ⟨rfl, rfl, by simp [encode]⟩
theorem camRd (a : Byte) : Statement (.camRd a) := ⟨rfl, rfl, by simp [encode]⟩
theorem camCnt : Statement .camCnt := ⟨rfl, rfl, by simp [encode]⟩
theorem txSend (p : Bytes) : Statement (.txSend p) :=
  ⟨rfl, rfl, by simp [encode, Instr.WellFormed, Instr.wellFormed]; omega⟩
theorem txTick : Statement .txTick := ⟨rfl, rfl, by simp [encode]⟩
theorem txStat : Statement .txStat := ⟨rfl, rfl, by simp [encode]⟩
theorem rxFrame (f : Bytes) : Statement (.rxFrame f) :=
  ⟨rfl, rfl, by simp [encode, Instr.WellFormed, Instr.wellFormed]; omega⟩
theorem reqn (c : Nonce) : Statement (.reqn c) := ⟨rfl, rfl, by simp [encode, encodeMessage]⟩
theorem nonce (c i : Nonce) : Statement (.nonce c i) :=
  ⟨rfl, rfl, by simp [encode, encodeMessage]⟩
theorem data (i k : Nonce) (b : Bytes) : Statement (.data i k b) :=
  ⟨rfl, rfl, by rw [wellFormed_data_iff]; simp [encode, encodeMessage]; omega⟩
theorem ack (k : Nonce) : Statement (.ack k) := ⟨rfl, rfl, by simp [encode, encodeMessage]⟩

end Sys2Proof.Laws.EncodeShape
end

