-- ==== Sys2Proof/Laws/Pseudo.lean ====
section
/-! SUPPORT. The pseudo-operations of spec/30_encoding.md R88: what a run of commands and one turn of the loop of
`SEND.BLOCKING` do, and that its result is `success` or `failure`. -/

namespace Sys2Proof.Machine

@[simp] theorem SendOutcome.ofCode_code (o : SendOutcome) : SendOutcome.ofCode o.code = some o := by
  cases o <;> rfl

@[simp] theorem Phase.code_eq_idle_iff (p : Phase) : p.code = Phase.idle.code ↔ p = .idle := by
  cases p <;> decide

/-! ### Runs of commands -/

/-- A run goes on from where its first part ends. -/
theorem feed_append (a b : List HostInput) (s : State) :
    feed (a ++ b) s =
      match feed a s with
      | .next t => feed b t
      | .fault r => .fault r
      | .refused r => .refused r := by
  induction a generalizing s with
  | nil => rfl
  | cons x rest ih =>
    simp only [feed, List.cons_append]
    cases step { s with inputs := [x] } with
    | next u => exact ih u
    | fault f => rfl
    | refused r => rfl

/-- What every command of a run keeps, the run keeps. -/
theorem feed_induction {P : State → Prop} {l : List HostInput}
    (hstep : ∀ x ∈ l, ∀ s t : State, P s → step { s with inputs := [x] } = .next t → P t) {s t : State}
    (hs : P s) (h : feed l s = .next t) : P t := by
  induction l generalizing s with
  | nil => cases h; exact hs
  | cons x rest ih =>
    simp only [feed] at h
    cases hx : step { s with inputs := [x] } with
    | next u =>
      rw [hx] at h
      exact ih (fun y hy => hstep y (List.mem_cons_of_mem x hy)) (hstep x (List.mem_cons_self ..) s u hs hx) h
    | fault f => cases f
    | refused r => rw [hx] at h; cases h

/-- The `TX.STAT` of a turn reports the session and changes no register (R164). -/
theorem feed_txStat (now : Time) (rnd : Nonce) (s : State) :
    feed [HostInput.ofInstr .txStat now rnd] s =
      .next (State.finish { s with inputs := [], now := now, rnd := rnd }
        { regs := s.regs, status := .ok,
          result := [s.regs.phase.code, s.regs.outcome.code, s.regs.retriesLeft] }) := rfl

/-- One turn of the loop after its `UPDATE`: the loop ends with the session's outcome if the session is idle, and
goes on otherwise (R88). -/
theorem pollUntilIdle_cons {u : PollTurn} {later : List PollTurn} {s t : State}
    (h : feed (pseudoUpdate u.frames u.tickNow u.tickRnd) s = .next t) :
    ∃ t' : State, t'.regs = t.regs ∧
      pollUntilIdle (u :: later) s =
        if t.regs.phase = .idle then some t.regs.outcome else pollUntilIdle later t' := by
  refine ⟨State.finish { t with inputs := [], now := u.statNow, rnd := u.statRnd }
    { regs := t.regs, status := .ok,
      result := [t.regs.phase.code, t.regs.outcome.code, t.regs.retriesLeft] }, rfl, ?_⟩
  simp only [pollUntilIdle, PollTurn.commands, feed_append, h, feed_txStat, State.finish_rsp,
    Phase.code_eq_idle_iff, SendOutcome.ofCode_code]

/-! ### The result of `SEND.BLOCKING` is `success` or `failure` -/

/-- A session that is over has an outcome. -/
def Regs.Settled (r : Regs) : Prop := r.phase = .idle → r.outcome ≠ .pending

/-- A refused operation keeps the registers, and so a settled session. -/
theorem reject_settled {s t : State} {st : Status} (h : s.reject st = .next t) (hs : s.regs.Settled) :
    t.regs.Settled := by
  rw [(State.reject_next_iff s st t).mp h]; exact hs

theorem execTxTick_settled {s t : State} (h : execTxTick s = .next t) (hs : s.regs.Settled) :
    t.regs.Settled := by
  unfold execTxTick at h
  repeat' split at h
  all_goals cases h
  all_goals first | exact hs | exact fun _ => SendOutcome.noConfusion

/-- No reception ends a session without an outcome (R165, R166, R190 to R193). -/
theorem execRxFrame_settled {f : Bytes} {s t : State} (h : execRxFrame f s = .next t) (hs : s.regs.Settled) :
    t.regs.Settled := by
  unfold execRxFrame dispatch execReqn execNonce execData execAck at h
  repeat' split at h
  all_goals cases h
  all_goals first | exact hs | exact fun _ => SendOutcome.noConfusion | exact Phase.noConfusion

/-- The record of a command with a counted string is that command, or malformed if the string is too long to count
(R71, R212). -/
theorem decodeCommand_counted {op : Byte} {f : Bytes → Instr} (hl : opcodeLayout op = some (.cv f)) (p : Bytes) :
    decodeCommand (op :: countByte p :: p) = .ok (f p) ∨
    decodeCommand (op :: countByte p :: p) = .error .malformedRecord := by
  by_cases h : p.length = (countByte p).toNat
  · exact .inl (by simp [decodeCommand, hl, Layout.operands, ← h])
  · exact .inr (by simp [decodeCommand, hl, Layout.operands, h])

/-- No `UPDATE` ends a session without an outcome (R88). -/
theorem pseudoUpdate_settled {frames : List ReceivedFrame} {now : Time} {rnd : Nonce} {s t : State}
    (hs : s.regs.Settled) (h : feed (pseudoUpdate frames now rnd) s = .next t) : t.regs.Settled := by
  refine feed_induction (P := fun s => s.regs.Settled) (fun x hx u v hu hv => ?_) hs h
  simp only [pseudoUpdate, List.mem_append, List.mem_map, List.mem_singleton] at hx
  obtain ⟨y, -, rfl⟩ | rfl := hx
  · obtain hd | hd := decodeCommand_counted (op := 0x50#8) (f := .rxFrame) rfl y.frame
    · rw [step, fetch_command rfl hd] at hv; exact execRxFrame_settled hv hu
    · rw [step, fetch_badRecord rfl hd] at hv; exact reject_settled hv hu
  · exact execTxTick_settled hv hu

/-- The loop ends with `success` or `failure` only (R88). -/
theorem pollUntilIdle_ne_pending {turns : List PollTurn} {s : State} (hs : s.regs.Settled) :
    pollUntilIdle turns s ≠ some .pending := by
  induction turns generalizing s with
  | nil => simp [pollUntilIdle]
  | cons u later ih =>
    cases h : feed (pseudoUpdate u.frames u.tickNow u.tickRnd) s with
    | next t =>
      have ht := pseudoUpdate_settled hs h
      obtain ⟨t', hr, hp⟩ := pollUntilIdle_cons (later := later) h
      rw [hp]
      split
      · rename_i hidle; simpa using ht hidle
      · exact ih (hr ▸ ht)
    | fault f => cases f
    | refused r => simp [pollUntilIdle, PollTurn.commands, feed_append, h]

/-- An accepted send has an outcome to come (R162). -/
theorem execTxSend_settled {p : Bytes} {s t : State} {result : Bytes} (h : execTxSend p s = .next t)
    (hr : t.rsp = some ⟨.ok, result⟩) : t.regs.Settled := by
  unfold execTxSend at h
  split at h
  · cases h; simp at hr
  split at h
  · cases h; simp at hr
  · cases h; exact Phase.noConfusion

/-- The result of `SEND.BLOCKING`, where it has one, is `success` or `failure` (R88). -/
theorem pseudoSendBlocking_result {p : Bytes} {now : Time} {rnd : Nonce} {turns : List PollTurn} {s : State}
    {o : SendOutcome} (h : pseudoSendBlocking p now rnd turns s = some o) : o = .success ∨ o = .failure := by
  unfold pseudoSendBlocking at h
  split at h
  case h_1 t ht =>
    split at h
    case h_1 result hr =>
      have hs : t.regs.Settled := by
        simp only [feed] at ht
        obtain hd | hd := decodeCommand_counted (op := 0x40#8) (f := .txSend) rfl p
        · rw [step, fetch_command rfl hd] at ht
          cases hx : execTxSend p { s with inputs := [], now := now, rnd := rnd } with
          | next u => simp only [exec, hx] at ht; cases ht; exact execTxSend_settled hx hr
          | fault f => cases f
          | refused r => simp only [exec, hx] at ht; cases ht
        · rw [step, fetch_badRecord rfl hd] at ht
          cases ht
          simp [DecodeError.status] at hr
      have := pollUntilIdle_ne_pending (turns := turns) hs
      cases o <;> simp_all
    case h_2 => cases h; exact .inr rfl
    case h_3 => cases h
  all_goals cases h

end Sys2Proof.Machine
end

