-- ==== Sys2Proof/Tests/Slice0.lean ====
section
/-! SUPPORT. The model's own tests. Expected records and frames are written out from spec/95_test_vectors.md (the
vector is named in the comment) or from the encoding tables of spec/30_encoding.md. The theorems named `witness_…`
show, for each obligation with hypotheses, concrete values that meet them, clause by clause. -/

namespace Sys2Proof.Tests

open Sys2Proof Sys2Proof.Machine

set_option maxRecDepth 20000

/-! ### Helpers -/

/-- A byte string from the numbers of a vector. -/
def by8 (l : List Nat) : Bytes := l.map (BitVec.ofNat 8)

/-- `n` bytes counting up from `a`. -/
def count (a n : Nat) : Bytes := (List.range n).map fun k => BitVec.ofNat 8 (a + k)

/-- The machine with these registers and these values on `NOW` and `RND`. -/
def at_ (r : Regs) (now : Time := 0#32) (rnd : Nonce := 0#16) : State :=
  { State.reset with regs := r, now := now, rnd := rnd }

/-- Response and emissions after an outcome. -/
def outputs (o : Host.Outcome State Fault Refusal) : Option (Response × List Emission) :=
  (stateAfter o).bind fun t => t.rsp.map fun r => (r, t.emitted)

/-- What the machine in this state answers to a command record: one step. -/
def answerTo (record : List Nat) (s : State) : Option (Response × List Emission) :=
  outputs (step { s with inputs := [.command (by8 record) s.now s.rnd] })

/-- The registers after one step that takes this command record. -/
def regsAfter (record : List Nat) (s : State) : Option Regs :=
  (stateAfter (step { s with inputs := [.command (by8 record) s.now s.rnd] })).map State.regs

/-- An answer with no emission. -/
def answers (st : Status) (result : List Nat) : Option (Response × List Emission) := some (⟨st, by8 result⟩, [])

/-- Registers with one entry in slot `k`. -/
def entryAt (k : Fin numSlots) (c n : Nonce) (t : Time) : Regs :=
  { Regs.reset with slots := Regs.reset.slots.set k ⟨true, c, n, t, .requestNonce⟩ }

/-- Registers with five entries made at `t`: challenges 0 to 4, nonces 100 to 104. -/
def fullTable (t : Time) : Regs :=
  { Regs.reset with
    slots := Vector.ofFn fun k => ⟨true, BitVec.ofNat 16 k.val, BitVec.ofNat 16 (100 + k.val), t, .requestNonce⟩ }

/-- A send of `[AA BB]` in phase 1: the registers after the first command of V1.5. -/
def sending : Regs :=
  { Regs.reset with
    phase := .awaitingNonce, retriesLeft := 19#8, nextAt := 50#32, chal := 0x1234#16, bodyLen := 2#5,
    body := (Regs.reset.body.set 0 0xAA#8).set 1 0xBB#8 }

/-- The same send in phase 2: the registers after the third command of V1.5. -/
def sendingData : Regs :=
  { sending with phase := .awaitingAck, nextAt := 60#32, issued := 0xBEEF#16, corr := 0xCAFE#16 }

/-- The frames of V1.5. -/
def fReqn : List Nat := [0x02, 0x1D, 0x03, 0x01, 0x12, 0x34, 0, 0, 0, 0, 0, 0, 0, 0, 0, 0]
/-- `FRAME(NONCE 0x1234, 0xBEEF)`. -/
def fNonce : List Nat := [0x09, 0x17, 0x05, 0x02, 0x12, 0x34, 0xBE, 0xEF, 0, 0, 0, 0, 0, 0, 0, 0]
/-- `FRAME(DATA 0xBEEF, 0xCAFE, [AA BB])`. -/
def fData : List Nat := [0x3F, 0x27, 0x07, 0x03, 0xBE, 0xEF, 0xCA, 0xFE, 0xAA, 0xBB, 0, 0, 0, 0, 0, 0]
/-- `FRAME(ACK 0xCAFE)`. -/
def fAck : List Nat := [0x03, 0x73, 0x03, 0x04, 0xCA, 0xFE, 0, 0, 0, 0, 0, 0, 0, 0, 0, 0]

/-! ### WellFormed: each check refuses an ill-formed term -/

theorem test_wf_crcGen_256 : ¬ (Instr.crcGen (List.replicate 256 0#8)).WellFormed := by decide
theorem test_wf_crcChk_256 : ¬ (Instr.crcChk 0#16 (List.replicate 256 0#8)).WellFormed := by decide
theorem test_wf_frmEnc_256 : ¬ (Instr.frmEnc (List.replicate 256 0#8)).WellFormed := by decide
theorem test_wf_frmDec_256 : ¬ (Instr.frmDec (List.replicate 256 0#8)).WellFormed := by decide
theorem test_wf_txSend_256 : ¬ (Instr.txSend (List.replicate 256 0#8)).WellFormed := by decide
theorem test_wf_rxFrame_256 : ¬ (Instr.rxFrame (List.replicate 256 0#8)).WellFormed := by decide
theorem test_wf_data_25 : ¬ (Instr.data 0#16 0#16 (List.replicate 25 0#8)).WellFormed := by decide

/-! ### Decoding: records and messages written out from R71, R72, R76 to R80 -/

theorem test_decode_sysReset : decode .host (by8 [0x00]) = .ok .sysReset := by decide
theorem test_decode_crcInit : decode .host (by8 [0x10]) = .ok .crcInit := by decide
theorem test_decode_crcByte : decode .host (by8 [0x11, 0x03]) = .ok (.crcByte 0x03#8) := by decide
theorem test_decode_crcRead : decode .host (by8 [0x12]) = .ok .crcRead := by decide
theorem test_decode_crcGen :
    decode .host (by8 [0x13, 0x03, 0x01, 0x12, 0x34]) = .ok (.crcGen [0x01#8, 0x12#8, 0x34#8]) := by decide
theorem test_decode_crcChk :
    decode .host (by8 [0x14, 0x02, 0x1D, 0x01, 0x55]) = .ok (.crcChk 0x021D#16 [0x55#8]) := by decide
theorem test_decode_frmEnc : decode .host (by8 [0x20, 0x02, 0x01, 0x12]) = .ok (.frmEnc [0x01#8, 0x12#8]) := by
  decide
theorem test_decode_frmDec : decode .host (by8 [0x21, 0x01, 0x7F]) = .ok (.frmDec [0x7F#8]) := by decide
theorem test_decode_camReq : decode .host (by8 [0x30, 0x12, 0x34]) = .ok (.camReq 0x1234#16) := by decide
theorem test_decode_camChk : decode .host (by8 [0x31, 0xBE, 0xEF]) = .ok (.camChk 0xBEEF#16) := by decide
theorem test_decode_camRd : decode .host (by8 [0x32, 0x04]) = .ok (.camRd 0x04#8) := by decide
theorem test_decode_camCnt : decode .host (by8 [0x33]) = .ok .camCnt := by decide
theorem test_decode_txSend : decode .host (by8 [0x40, 0x02, 0xAA, 0xBB]) = .ok (.txSend [0xAA#8, 0xBB#8]) := by
  decide
theorem test_decode_txTick : decode .host (by8 [0x41]) = .ok .txTick := by decide
theorem test_decode_txStat : decode .host (by8 [0x42]) = .ok .txStat := by decide
theorem test_decode_rxFrame : decode .host (by8 (0x50 :: 0x10 :: fReqn)) = .ok (.rxFrame (by8 fReqn)) := by decide
theorem test_decode_reqn : decode .wire (by8 [0x01, 0x12, 0x34]) = .ok (.reqn 0x1234#16) := by decide
theorem test_decode_nonce :
    decode .wire (by8 [0x02, 0x12, 0x34, 0xBE, 0xEF]) = .ok (.nonce 0x1234#16 0xBEEF#16) := by decide
theorem test_decode_data :
    decode .wire (by8 [0x03, 0xBE, 0xEF, 0xCA, 0xFE, 0xAA]) = .ok (.data 0xBEEF#16 0xCAFE#16 [0xAA#8]) := by decide
theorem test_decode_ack : decode .wire (by8 [0x04, 0xCA, 0xFE]) = .ok (.ack 0xCAFE#16) := by decide

/-- R83, R211, R212 and section 8 of 95_test_vectors.md: every kind of rejection, by name. -/
theorem test_decode_rejects :
    decode .host [] = .error .emptyRecord ∧
    decode .host (by8 [0x99]) = .error .illegalOpcode ∧
    decode .host (by8 [0x01, 0x02, 0x03]) = .error .illegalOpcode ∧
    decode .host (by8 [0x10, 0x00]) = .error .malformedRecord ∧
    decode .host (by8 [0x20, 0x03, 0x01, 0x02]) = .error .malformedRecord ∧
    decode .host (by8 [0x30, 0x12]) = .error .malformedRecord ∧
    decode .host (by8 [0x14, 0x02, 0x1D]) = .error .malformedRecord ∧
    decode .wire [] = .error .emptyMessage ∧
    decode .wire (by8 [0x09, 0x01, 0x02]) = .error .unknownType ∧
    decode .wire (by8 [0x01, 0x12, 0x34, 0x00]) = .error .badMessageLength ∧
    decode .wire (by8 [0x03, 0x00, 0x00, 0x00]) = .error .badMessageLength ∧
    decode .wire (by8 [0x04, 0xCA]) = .error .badMessageLength := by decide

/-- The first bytes of the twenty rows of spec/opcode_table.json, in its order. -/
def tableRows : List Nat :=
  [0x00, 0x10, 0x11, 0x12, 0x13, 0x14, 0x20, 0x21, 0x30, 0x31, 0x32, 0x33, 0x40, 0x41, 0x42, 0x50,
    0x01, 0x02, 0x03, 0x04]

/-- The instruction of each row with zeros for the operands. -/
theorem test_table_words :
    tableRows.map (decodeTableWord 8) =
      [some .sysReset, some .crcInit, some (.crcByte 0#8), some .crcRead, some (.crcGen []),
        some (.crcChk 0#16 []), some (.frmEnc []), some (.frmDec []), some (.camReq 0#16), some (.camChk 0#16),
        some (.camRd 0#8), some .camCnt, some (.txSend []), some .txTick, some .txStat, some (.rxFrame []),
        some (.reqn 0#16), some (.nonce 0#16 0#16), some (.data 0#16 0#16 []), some (.ack 0#16)] := by decide

/-- A step runs the row's instruction as the first one after reset. -/
theorem test_table_words_run :
    tableRows.map (fun w => stateAfter (step (State.reset.withFetchWord 8 w))) =
      tableRows.map fun w => (decodeTableWord 8 w).bind fun i => stateAfter (exec i State.reset) := by decide

/-- A word of more bits: `CAM.REQ 0x1234`, its second byte in bits 15 to 8. -/
theorem test_table_word_long : decodeTableWord 24 0x341230 = some (.camReq 0x1234#16) := by decide

/-! ### Instructions -/

/-- P6: after `SYS.RESET` every register is at its reset value. -/
theorem test_sysReset : regsAfter [0x00] (at_ sendingData) = some Regs.reset := by decide

theorem test_crcInit : (regsAfter [0x10] (at_ { Regs.reset with acc := 7#16 })).map Regs.acc = some 0x1021#16 := by
  decide

/-- Section 3: `CRC.BYTE 0x01` from `ACC` = 0x8000. -/
theorem test_crcByte_rotates :
    (regsAfter [0x11, 0x01] (at_ { Regs.reset with acc := 0x8000#16 })).map Regs.acc = some 0x0000#16 := by decide
/-- Section 2: 0x4000 with byte 0x80. -/
theorem test_crcByte_xors :
    (regsAfter [0x11, 0x80] (at_ { Regs.reset with acc := 0x4000#16 })).map Regs.acc = some 0x8080#16 := by decide

theorem test_crcRead : answerTo [0x12] (at_ Regs.reset) = answers .ok [0x10, 0x21] := by decide

/-- Section 3: the empty payload, whose length byte is still summed. -/
theorem test_crcGen_empty : answerTo [0x13, 0x00] (at_ Regs.reset) = answers .ok [0x20, 0x42] := by decide
/-- V2.8b: the longest payload. -/
theorem test_crcGen_29 :
    outputs (exec (.crcGen (count 0 29)) (at_ Regs.reset)) = answers .ok [0xFB, 0xFE] := by decide

/-- P1: a mismatch still answers and stores the recomputed checksum. -/
theorem test_crcChk_mismatch :
    answerTo [0x14, 0x02, 0x1C, 0x03, 0x01, 0x12, 0x34] (at_ Regs.reset) = answers .eCksum [0x02, 0x1D] ∧
    (regsAfter [0x14, 0x02, 0x1C, 0x03, 0x01, 0x12, 0x34] (at_ Regs.reset)).map Regs.acc = some 0x021D#16 := by
  decide
theorem test_crcChk_match :
    answerTo [0x14, 0x02, 0x1D, 0x03, 0x01, 0x12, 0x34] (at_ Regs.reset) = answers .ok [0x02, 0x1D] := by decide

/-- Section 4: 13 bytes fill one block. -/
theorem test_frmEnc_13 :
    outputs (exec (.frmEnc (count 0x10 13)) (at_ Regs.reset)) =
      answers .ok [0x1A, 0xE2, 0x0D, 0x10, 0x11, 0x12, 0x13, 0x14, 0x15, 0x16, 0x17, 0x18, 0x19, 0x1A, 0x1B, 0x1C] := by
  decide
/-- Section 4: 14 bytes take two blocks. -/
theorem test_frmEnc_14 :
    outputs (exec (.frmEnc (count 0x10 14)) (at_ Regs.reset)) =
      answers .ok ([0xF5, 0xD9, 0x0E, 0x10, 0x11, 0x12, 0x13, 0x14, 0x15, 0x16, 0x17, 0x18, 0x19, 0x1A, 0x1B, 0x1C, 0x1D] ++
        List.replicate 15 0) := by decide

/-- Section 4: pad bytes of any value, in a 32-byte buffer. -/
theorem test_frmDec_pad :
    outputs (exec (.frmDec (by8 ([0x02, 0x1D, 0x03, 0x01, 0x12, 0x34] ++ List.replicate 26 0xEE))) (at_ Regs.reset)) =
      answers .ok [0x03, 0x01, 0x12, 0x34] := by decide
/-- Section 4: the checks in their order. -/
theorem test_frmDec_order :
    ([by8 (fReqn.take 15), [], by8 (fReqn ++ fReqn ++ fReqn), by8 ([0x02, 0x1D, 0x1E] ++ List.replicate 29 0),
        by8 ([0x02, 0x1D, 0x0E] ++ List.replicate 13 0), by8 (fReqn.set 4 0x02)].map
      fun f => outputs (exec (.frmDec f) (at_ Regs.reset))) =
      [answers .eAlign [], answers .eSize [], answers .eSize [], answers .eLen [], answers .eFit [], answers .eCksum []] := by decide

/-- V1.2: the last millisecond of the entry's life. -/
theorem test_camReq_reuse :
    answerTo [0x30, 0x12, 0x34] (at_ (entryAt 0 0x1234#16 0xBEEF#16 100#32) 1099#32 0x3333#16) =
      answers .ok [0x00, 0xBE, 0xEF, 0x00] := by decide
/-- V1.3: one millisecond later the same slot is written again. -/
theorem test_camReq_expired :
    answerTo [0x30, 0x12, 0x34] (at_ (entryAt 0 0x1234#16 0xBEEF#16 100#32) 1100#32 0x2222#16) =
      answers .ok [0x01, 0x22, 0x22, 0x00] := by decide

/-- Section 6: live across the wrap of the counter, 999 ms old. -/
theorem test_camChk_wrap :
    answerTo [0x31, 0x55, 0x55] (at_ (entryAt 0 1#16 0x5555#16 0xFFFFFF00#32) 743#32) = answers .ok [0x00] := by decide
/-- Section 6: dead at 744. -/
theorem test_camChk_dead :
    answerTo [0x31, 0x55, 0x55] (at_ (entryAt 0 1#16 0x5555#16 0xFFFFFF00#32) 744#32) = answers .eMiss [] := by decide

/-- P2: a dead entry still shows its fields. -/
theorem test_camRd :
    answerTo [0x32, 0x00] (at_ (entryAt 0 0x1234#16 0xBEEF#16 100#32) 1100#32) =
      answers .ok [0x01, 0x00, 0x12, 0x34, 0xBE, 0xEF, 0x00, 0x00, 0x00, 0x64] := by decide
/-- Section 8: the first index past the table. -/
theorem test_camRd_index : answerTo [0x32, 0x05] (at_ Regs.reset) = answers .eIdx [] := by decide

theorem test_camCnt : answerTo [0x33] (at_ (fullTable 40#32) 1039#32) = answers .ok [0x05] := by decide

/-- V1.5: the send's first transmission. -/
theorem test_txSend :
    answerTo [0x40, 0x02, 0xAA, 0xBB] (at_ Regs.reset 0#32 0x1234#16) = some (⟨.ok, []⟩, [.txf (by8 fReqn)]) ∧
    regsAfter [0x40, 0x02, 0xAA, 0xBB] (at_ Regs.reset 0#32 0x1234#16) = some sending := by decide
/-- V1.8: 25 bytes fail, transmit nothing and set `OUTCOME`. -/
theorem test_txSend_25 :
    outputs (exec (.txSend (count 0 25)) (at_ Regs.reset)) = answers .eLen [] ∧
    (stateAfter (exec (.txSend (count 0 25)) (at_ Regs.reset))).map State.regs =
      some { Regs.reset with outcome := .failure } := by decide

/-- P3: the retransmission in phase 2. -/
theorem test_txTick_data :
    answerTo [0x41] (at_ sendingData 60#32) = some (⟨.ok, [2#8]⟩, [.txf (by8 fData)]) ∧
    regsAfter [0x41] (at_ sendingData 60#32) = some { sendingData with retriesLeft := 18#8, nextAt := 110#32 } := by
  decide
/-- P4: the timeout, with no budget left at the deadline. -/
theorem test_txTick_timeout :
    answerTo [0x41] (at_ { sending with retriesLeft := 0#8 } 50#32) = answers .eTimeout [] ∧
    regsAfter [0x41] (at_ { sending with retriesLeft := 0#8 } 50#32) =
      some { sending with retriesLeft := 0#8, phase := .idle, outcome := .failure } := by decide

/-- P3: the state after the first command. -/
theorem test_txStat : answerTo [0x42] (at_ sending) = answers .ok [0x01, 0x00, 0x13] := by decide

/-- P2: the body first, then the acknowledgment. -/
theorem test_rxFrame_data :
    answerTo (0x50 :: 0x10 :: fData) (at_ (entryAt 0 0x1234#16 0xBEEF#16 100#32) 1099#32) =
      some (⟨.ok, [3#8]⟩, [.dlv [0xAA#8, 0xBB#8], .txf (by8 fAck)]) := by decide
/-- Section 7: an empty message has no type. -/
theorem test_rxFrame_empty :
    answerTo ([0x50, 0x10, 0x20, 0x42] ++ List.replicate 14 0) (at_ Regs.reset) = answers .eType [] := by decide

/-- V1.5: a new entry. -/
theorem test_reqn_new :
    outputs (exec (.reqn 0x1234#16) (at_ Regs.reset 5#32 0xBEEF#16)) =
      some (⟨.ok, [2#8]⟩, [.txf (by8 fNonce)]) ∧
    (stateAfter (exec (.reqn 0x1234#16) (at_ Regs.reset 5#32 0xBEEF#16))).map State.regs =
      some (entryAt 0 0x1234#16 0xBEEF#16 5#32) := by decide
/-- P2: a reused entry keeps its nonce and its time. -/
theorem test_reqn_reused :
    outputs (exec (.reqn 0x1234#16) (at_ (entryAt 0 0x1234#16 0xBEEF#16 100#32) 150#32 0x1111#16)) =
      some (⟨.ok, [1#8]⟩, [.txf (by8 fNonce)]) := by decide

/-- V1.5: phase 2 begins. -/
theorem test_nonce :
    outputs (exec (.nonce 0x1234#16 0xBEEF#16) (at_ sending 10#32 0xCAFE#16)) =
      some (⟨.ok, [4#8]⟩, [.txf (by8 fData)]) ∧
    (stateAfter (exec (.nonce 0x1234#16 0xBEEF#16) (at_ sending 10#32 0xCAFE#16))).map State.regs =
      some sendingData := by decide
/-- P3: another challenge is not ours. -/
theorem test_nonce_stray :
    outputs (exec (.nonce 0x1235#16 0xBEEF#16) (at_ sending 10#32 0x7777#16)) = answers .eNomatch [] := by decide

/-- V1.3: an expired nonce delivers nothing. -/
theorem test_data_expired :
    outputs (exec (.data 0xBEEF#16 0xCAFE#16 [0xAA#8]) (at_ (entryAt 0 0x1234#16 0xBEEF#16 100#32) 1100#32)) =
      answers .eMiss [] := by decide
theorem test_data_delivers :
    outputs (exec (.data 0xBEEF#16 0xCAFE#16 [0xAA#8]) (at_ (entryAt 4 0x1234#16 0xBEEF#16 100#32) 100#32)) =
      some (⟨.ok, [3#8]⟩, [.dlv [0xAA#8], .txf (by8 fAck)]) := by decide

/-- V1.5: success. -/
theorem test_ack :
    outputs (exec (.ack 0xCAFE#16) (at_ sendingData 20#32)) = answers .ok [0x05] ∧
    (stateAfter (exec (.ack 0xCAFE#16) (at_ sendingData 20#32))).map State.regs =
      some { sendingData with phase := .idle, outcome := .success } := by decide
/-- P3: another token is not ours. -/
theorem test_ack_stray :
    outputs (exec (.ack 0xCAFF#16) (at_ sendingData 20#32)) = answers .eNomatch [] := by decide

/-! ### Steps -/

/-- Section 8: what a record that is no command answers. -/
theorem test_step_badRecords :
    [[0x99], [0x10, 0x00], []].map (fun r => answerTo r (at_ sending 50#32)) =
      [answers .eOp [], answers .eFmt [], answers .eFmt []] := by decide

/-- R62, V1.5: the delivery, then the acknowledgment, then the response, and after them the next operation's. -/
theorem test_output_order :
    outputTrace [.command (by8 (0x50 :: 0x10 :: fData)) 20#32 0#16, .command [0x42#8] 21#32 0#16]
        (at_ (entryAt 4 0x1234#16 0xBEEF#16 5#32)) =
      [.emission (.dlv [0xAA#8, 0xBB#8]), .emission (.txf (by8 fAck)), .response ⟨.ok, [3#8]⟩,
        .response ⟨.ok, [0#8, 0#8, 0#8]⟩] := by decide

/-- The reset input answers nothing, and a step without input changes no register. -/
theorem test_step_reset_and_idle :
    stateAfter (step { at_ sending with inputs := [.reset] }) = some (at_ Regs.reset) ∧
    stateAfter (step (at_ sending)) = some (at_ sending) := by decide

/-- R257 against R34 (e) (log 11): an entry of challenge 7 made at 500 is dead when the counter has come round to
400, so a request makes a second one; 100 ms later both are live. -/
theorem test_wrap_duplicates :
    (stateAfter (exec (.camReq 7#16) (at_ (entryAt 1 7#16 1#16 500#32) 400#32 2#16))).map
      (fun t => t.regs.slots.toList.countP fun e => live 500#32 e && decide (e.chal = 7#16)) = some 2 := by decide

/-! ### Pseudo-operations (R88) -/

/-- The sender of V1.5 as a blocking send: the `NONCE` in the first turn, the `ACK` in the second. -/
theorem test_sendBlocking_success :
    pseudoSendBlocking [0xAA#8, 0xBB#8] 0#32 0x1234#16
      [⟨[⟨by8 fNonce, 10#32, 0xCAFE#16⟩], 10#32, 0#16, 10#32, 0#16⟩,
        ⟨[⟨by8 fAck, 20#32, 0#16⟩], 20#32, 0#16, 20#32, 0#16⟩] (at_ Regs.reset) = some .success := by decide
/-- An oversize body fails at once; without turns, or while a send is in flight, there is no result (log 16). -/
theorem test_sendBlocking_at_once :
    pseudoSendBlocking (count 0 25) 0#32 0#16 [] (at_ Regs.reset) = some .failure ∧
    pseudoSendBlocking [] 0#32 0#16 [] (at_ Regs.reset) = none ∧
    pseudoSendBlocking [] 0#32 0#16 [⟨[], 0#32, 0#16, 0#32, 0#16⟩] (at_ sending) = none := by decide

/-! ### Witnesses: the hypotheses of the obligations, met -/

/-- A state in which the host presents one record. -/
def given (record : List Nat) : State := { State.reset with inputs := [.command (by8 record) 7#32 9#16] }

/-- The instruction completes here. -/
def completes (i : Instr) (s : State) : Bool := (stateAfter (exec i s)).isSome

theorem witness_StepRunsTheDecodedCommand :
    (given [0x33]).inputs = .command (by8 [0x33]) 7#32 9#16 :: [] ∧ decode .host (by8 [0x33]) = .ok .camCnt := by
  decide

theorem witness_StepWithoutCommandIdlesOrResets :
    State.reset.inputs = [] ∧ ({ State.reset with inputs := [.reset] } : State).inputs = .reset :: [] := by decide

/-- A record for each clause: empty, illegal, each format too short and too long, and one that passes. -/
theorem witness_CommandChecksComeInOrder :
    (given []).inputs = .command [] 7#32 9#16 :: [] ∧
    0x99#8 ∉ [0x00#8, 0x10#8, 0x11#8, 0x12#8, 0x13#8, 0x14#8, 0x20#8, 0x21#8, 0x30#8, 0x31#8, 0x32#8, 0x33#8,
      0x40#8, 0x41#8, 0x42#8, 0x50#8] ∧
    (0x10#8 ∈ [0x00#8, 0x10#8, 0x12#8, 0x33#8, 0x41#8, 0x42#8] ∧ by8 [0] ≠ []) ∧
    (0x11#8 ∈ [0x11#8, 0x32#8] ∧ (by8 []).length ≠ 1 ∧ (by8 [0, 0]).length ≠ 1) ∧
    (0x30#8 ∈ [0x30#8, 0x31#8] ∧ (by8 [0]).length ≠ 2 ∧ (by8 [0, 0, 0]).length ≠ 2) ∧
    (0x13#8 ∈ [0x13#8, 0x20#8, 0x21#8, 0x40#8, 0x50#8] ∧ (by8 [9]).length ≠ (2#8).toNat ∧
      (by8 [9]).length ≠ (0#8).toNat) ∧
    ((by8 [0, 0]).length < 3 ∧ (by8 []).length ≠ (1#8).toNat) ∧
    decode .host (by8 [0x10]) = .ok .crcInit := by decide

theorem witness_SysResetRestoresEveryRegister :
    ({ State.reset with inputs := [.reset] } : State).inputs = .reset :: [] := by decide

theorem witness_AfterResetNothingIsLiveOrPending : State.reset.regs = Regs.reset := by decide

theorem witness_ChecksumHasTheClosedForm : (by8 [1, 2]).length = (by8 [3, 4]).length := by decide

theorem witness_SingleBitChangeFlipsOneChecksumBit :
    (0 < (by8 [1]).length ∧ 0 < 8) ∧ (1 < (by8 [1, 2]).length ∧ 7 < 8) := by decide

theorem witness_SomeTwoBitChangesAreUndetected :
    (0 + 1 < (by8 [1, 2]).length ∧ 6 ≤ 6) ∧ (0 + 16 < (count 0 17).length ∧ 7 < 8) := by decide

theorem witness_CrcGenEqualsTheByteSerialSequence :
    (count 0 255).length = (255#8).toNat ∧ 29 < (count 0 30).length ∧ (count 0 29).length ≤ 29 := by decide

theorem witness_CrcChkComparesTheRecomputedChecksum :
    (count 0 255).length = (255#8).toNat ∧ 29 < (count 0 30).length ∧
    ((count 0 29).length ≤ 29 ∧ cksum (BitVec.ofNat 8 (count 0 29).length :: count 0 29) = 0xFBFE#16) ∧
    ((count 0 29).length ≤ 29 ∧ cksum (BitVec.ofNat 8 (count 0 29).length :: count 0 29) ≠ 0xFBFF#16) := by decide

theorem witness_AccumulatorIsPrivateToTheCrcFamily :
    touchesAcc .camCnt = false ∧ completes .camCnt State.reset = true ∧ (count 0 29).length ≤ 29 := by decide

theorem witness_FrmEncBuildsTheFrame :
    (count 0 255).length = (255#8).toNat ∧ (count 0 13).length ≤ 29 ∧ (count 0 14).length ≤ 29 ∧
    (count 0 29).length ≤ 29 ∧ 29 < (count 0 30).length := by decide

/-- A buffer for each clause, at the sizes and length bytes where the clauses meet. -/
theorem witness_FrmDecChecksInOrder :
    (count 0 0).length = (0#8).toNat ∧ (count 0 15).length % 16 ≠ 0 ∧
    ((count 0 0).length % 16 = 0 ∧ (count 0 0).length = 0) ∧
    ((count 0 48).length % 16 = 0 ∧ 32 < (count 0 48).length) ∧
    ((count 0 13).length = 13 ∧ (count 0 29).length = 29) ∧ 29 < (30#8).toNat ∧
    ((14#8).toNat ≤ 29 ∧ (count 0 13).length < (14#8).toNat) ∧
    ((13#8).toNat ≤ 29 ∧ (13#8).toNat ≤ (count 0 13).length ∧
      cksum (13#8 :: (count 0x10 13).take 13) ≠ be16 0#8 0#8) ∧
    ((13#8).toNat ≤ 29 ∧ (13#8).toNat ≤ (count 0 13).length ∧
      cksum (13#8 :: (count 0x10 13).take 13) = be16 0x1A#8 0xE2#8) := by decide

theorem witness_FrameEncodeDecodeRoundTrip :
    (count 0 29).length ≤ 29 ∧ frameDecode (by8 fReqn) = .ok (by8 [0x01, 0x12, 0x34]) := by decide

theorem witness_PadBytesAreNotInspected :
    frameDecode (by8 fReqn) = .ok (by8 [0x01, 0x12, 0x34]) ∧
    (by8 (fReqn.set 15 0x77)).length = (by8 fReqn).length ∧
    (by8 (fReqn.set 15 0x77)).take (3 + 3) = (by8 fReqn).take (3 + 3) ∧ by8 (fReqn.set 15 0x77) ≠ by8 fReqn := by
  decide

theorem witness_LiveAndDueAreModularWindows : 999 < 2 ^ 32 ∧ 1000 < 2 ^ 32 ∧ 2 ^ 31 - 1 < 2 ^ 32 ∧ 2 ^ 32 - 1 < 2 ^ 32 := by
  decide

/-- A table with the entry of challenge 4 in its last slot, all entries 999 ms old. -/
theorem witness_CamReqReusesAllocatesOrIsFull_reuse :
    live 1039#32 (fullTable 40#32).slots[4] = true ∧ (fullTable 40#32).slots[4].chal = 4#16 ∧
    ∀ j : Fin numSlots, j < 4 → live 1039#32 (fullTable 40#32).slots[j] = true →
      (fullTable 40#32).slots[j].chal ≠ 4#16 := by decide

/-- The same table 1 ms later: all entries dead, the lowest slot is taken; and one with only slot 4 free. -/
theorem witness_CamReqReusesAllocatesOrIsFull_allocate :
    ((∀ j : Fin numSlots, live 1040#32 (fullTable 40#32).slots[j] = true → (fullTable 40#32).slots[j].chal ≠ 4#16) ∧
      live 1040#32 (fullTable 40#32).slots[0] = false) ∧
    ((∀ j : Fin numSlots, live 41#32 ((fullTable 40#32).slots.set 4 Slot.reset)[j] = true →
        ((fullTable 40#32).slots.set 4 Slot.reset)[j].chal ≠ 4#16) ∧
      live 41#32 ((fullTable 40#32).slots.set 4 Slot.reset)[4] = false ∧
      ∀ j : Fin numSlots, j < 4 → live 41#32 ((fullTable 40#32).slots.set 4 Slot.reset)[j] = true) := by decide

theorem witness_CamReqReusesAllocatesOrIsFull_full :
    ∀ j : Fin numSlots, live 1039#32 (fullTable 40#32).slots[j] = true ∧ (fullTable 40#32).slots[j].chal ≠ 5#16 := by
  decide

/-- A hit in the last slot and a miss; the same values meet the clauses of `DATA`. -/
theorem witness_CamChkFindsTheLowestLiveIssuer :
    (live 1039#32 (fullTable 40#32).slots[4] = true ∧ (fullTable 40#32).slots[4].iss = 104#16 ∧
      ∀ j : Fin numSlots, j < 4 → live 1039#32 (fullTable 40#32).slots[j] = true →
        (fullTable 40#32).slots[j].iss ≠ 104#16) ∧
    ∀ j : Fin numSlots, live 1040#32 (fullTable 40#32).slots[j] = true → (fullTable 40#32).slots[j].iss ≠ 104#16 := by
  decide

theorem witness_CamRdAnswersTheSlotOrRefusesTheIndex : 5 ≤ (5#8).toNat ∧ 5 ≤ (255#8).toNat := by decide

/-- A live slot, and a dead one that a request writes. -/
theorem witness_LiveSlotsAreNeverModified :
    (Instr.camReq 5#16 ≠ .sysReset ∧ completes (.camReq 5#16) (at_ (entryAt 0 1#16 2#16 0#32) 999#32) = true ∧
      live 999#32 (entryAt 0 1#16 2#16 0#32).slots[0] = true ∧ (entryAt 0 1#16 2#16 0#32).slots[0].valid = true) ∧
    (regsAfter [0x30, 0x00, 0x05] (at_ (entryAt 0 1#16 2#16 0#32) 999#32)).map (fun r => r.slots[1]) ≠
      some (entryAt 0 1#16 2#16 0#32).slots[1] := by decide

/-- The entry in slot 0, the other slots never written, a command 999 ms after its creation, and a request then. -/
theorem witness_HandshakeIsIdempotentWhileTheEntryLives :
    (entryAt 0 1#16 2#16 100#32).slots[0].valid = true ∧
    (∀ j : Fin numSlots, j ≠ 0 → (entryAt 0 1#16 2#16 100#32).slots[j].chal ≠ (entryAt 0 1#16 2#16 100#32).slots[0].chal) ∧
    ((1099#32 - (entryAt 0 1#16 2#16 100#32).slots[0].t).toNat < 1000 ∧
      decode .host (by8 [0x30, 0x00, 0x07]) ≠ .ok .sysReset) := by decide

theorem witness_LiveChallengesStayDistinctAtOneTime :
    LiveChallengesDistinct (at_ (fullTable 40#32) 41#32).now (at_ (fullTable 40#32) 41#32).regs.slots ∧
    completes (.camReq 9#16) (at_ (fullTable 40#32) 41#32) = true := by
  unfold LiveChallengesDistinct; decide

theorem witness_OrderedTableIsKeptByEveryStep :
    TableOrdered 41#32 (fullTable 40#32).slots ∧ (41#32).toNat ≤ (1040#32).toNat ∧
    (stateAfter (step { at_ (fullTable 40#32) 41#32 with
      inputs := [.command (by8 [0x30, 0, 9]) 1040#32 5#16] })).isSome = true := by
  unfold TableOrdered; decide

theorem witness_TxSendStartsASendOrRefuses :
    (count 0 255).length = (255#8).toNat ∧ sending.phase ≠ .idle ∧
    (Regs.reset.phase = .idle ∧ 24 < (count 0 25).length) ∧ (Regs.reset.phase = .idle ∧ (count 0 24).length ≤ 24) := by
  decide

/-- The clauses of the tick, 1 ms before the deadline, at it, at the end of the window, and without budget. -/
theorem witness_TxTickWaitsRetransmitsOrTimesOut :
    Regs.reset.phase = .idle ∧ (sending.phase ≠ .idle ∧ due 49#32 sending.nextAt = false) ∧
    (sending.phase ≠ .idle ∧ due 50#32 sending.nextAt = true ∧ { sending with retriesLeft := 0#8 }.retriesLeft = 0#8) ∧
    (due (50#32 + 0x7FFFFFFF#32) sending.nextAt = true ∧ sending.retriesLeft ≠ 0#8 ∧ sending.phase = .awaitingNonce) ∧
    (due 60#32 sendingData.nextAt = true ∧ sendingData.retriesLeft ≠ 0#8 ∧ sendingData.phase = .awaitingAck) := by
  decide

theorem witness_NonceStartsTheDataPhaseOrIsIgnored :
    (sending.phase = .awaitingNonce ∧ 0x1234#16 = sending.chal) ∧ sendingData.phase ≠ .awaitingNonce ∧
    0x1235#16 ≠ sending.chal := by decide

theorem witness_AckEndsTheSendOrIsIgnored :
    (sendingData.phase = .awaitingAck ∧ 0xCAFE#16 = sendingData.corr) ∧ sending.phase ≠ .awaitingAck ∧
    0xCAFF#16 ≠ sendingData.corr := by decide

theorem witness_PhaseTransitionsAreComplete :
    completes (.txSend []) State.reset = true ∧ completes .txTick (at_ sending 50#32) = true := by decide

theorem witness_UnansweredPhaseRetransmitsNineteenTimesThenFails :
    sending.phase ≠ .idle ∧ sending.retriesLeft = 19#8 ∧ sending.nextAt = 0#32 + 50#32 ∧ 0 < 19 ∧ 18 < 19 := by decide

theorem witness_SendTransmitsIdenticalFrames :
    completes .txTick (at_ sending 50#32) = true ∧ Instr.txTick ≠ .sysReset ∧
    (∀ p : Bytes, Instr.txTick ≠ .txSend p) ∧ sending.phase ≠ .idle ∧
    (∀ c n : Nonce, ¬ Receives .txTick (.nonce c n)) ∧ sendingData.phase ≠ .awaitingNonce ∧
    (regsAfter [0x40, 0x00] (at_ Regs.reset)).map Regs.phase = some .awaitingNonce ∧ Regs.reset.phase = .idle ∧
    (regsAfter [0x41] (at_ sending 50#32)).map Regs.phase = some sending.phase := by
  refine ⟨by decide, by decide, fun p => by simp, by decide, fun c n => ?_, by decide, by decide, by decide, by decide⟩
  simp [Receives, Message.toInstr]

/-- A frame for each clause: undecodable, empty, unknown type, a wrong length of each type, and each message. -/
theorem witness_RxFrameDispatchesByTypeAndLength :
    (by8 fReqn).length = (16#8).toNat ∧ frameDecode (by8 (fReqn.set 4 0x02)) = .error .eCksum ∧
    frameDecode (by8 ([0x20, 0x42] ++ List.replicate 14 0)) = .ok [] ∧
    frameDecode (frameEncode (by8 [0x09, 0x01])) = .ok (0x09#8 :: by8 [0x01]) ∧
    (frameDecode (frameEncode (by8 [0x01, 1, 2, 3])) = .ok (0x01#8 :: by8 [1, 2, 3]) ∧ (by8 [1, 2, 3]).length ≠ 2) ∧
    (frameDecode (frameEncode (by8 [0x02, 1, 2, 3])) = .ok (0x02#8 :: by8 [1, 2, 3]) ∧ (by8 [1, 2, 3]).length ≠ 4) ∧
    (frameDecode (frameEncode (by8 [0x03, 1, 2, 3])) = .ok (0x03#8 :: by8 [1, 2, 3]) ∧ (by8 [1, 2, 3]).length < 4) ∧
    (frameDecode (frameEncode (by8 [0x04, 1])) = .ok (0x04#8 :: by8 [1]) ∧ (by8 [1]).length ≠ 2) ∧
    frameDecode (by8 fReqn) = .ok (0x01#8 :: [0x12#8, 0x34#8]) ∧
    frameDecode (by8 fNonce) = .ok (0x02#8 :: [0x12#8, 0x34#8, 0xBE#8, 0xEF#8]) ∧
    frameDecode (by8 fData) = .ok (0x03#8 :: 0xBE#8 :: 0xEF#8 :: 0xCA#8 :: 0xFE#8 :: [0xAA#8, 0xBB#8]) ∧
    frameDecode (by8 fAck) = .ok (0x04#8 :: [0xCA#8, 0xFE#8]) := by decide

/-- The frames of V1.5 in the states that take them; the table's hypotheses are those of `CAM.REQ`. -/
theorem witness_RxFrameTakesTheMessagesEffect :
    (frameDecode (by8 fReqn) = .ok [0x01#8, hi 0x1234#16, lo 0x1234#16] ∧
      live 999#32 (entryAt 0 0x1234#16 2#16 0#32).slots[0] = true ∧
      (entryAt 0 0x1234#16 2#16 0#32).slots[0].chal = 0x1234#16) ∧
    ((∀ j : Fin numSlots, live 1000#32 (entryAt 0 0x1234#16 2#16 0#32).slots[j] = true →
        (entryAt 0 0x1234#16 2#16 0#32).slots[j].chal ≠ 0x1234#16) ∧
      live 1000#32 (entryAt 0 0x1234#16 2#16 0#32).slots[0] = false) ∧
    (frameDecode (by8 fNonce) = .ok [0x02#8, hi sending.chal, lo sending.chal, hi 0xBEEF#16, lo 0xBEEF#16] ∧
      sending.phase = .awaitingNonce) ∧
    (frameDecode (by8 fData) =
        .ok ([0x03#8, hi 0xBEEF#16, lo 0xBEEF#16, hi 0xCAFE#16, lo 0xCAFE#16] ++ [0xAA#8, 0xBB#8]) ∧
      live 999#32 (entryAt 4 1#16 0xBEEF#16 0#32).slots[4] = true ∧ (entryAt 4 1#16 0xBEEF#16 0#32).slots[4].iss = 0xBEEF#16) ∧
    (frameDecode (by8 fAck) = .ok [0x04#8, hi sendingData.corr, lo sendingData.corr] ∧
      sendingData.phase = .awaitingAck) := by decide

/-- The clauses of `REQN` have the hypotheses of `CAM.REQ`. -/
theorem witness_ReqnRepliesOnReuseAndAllocation :
    (live 999#32 (entryAt 0 1#16 2#16 0#32).slots[0] = true ∧ (entryAt 0 1#16 2#16 0#32).slots[0].chal = 1#16) ∧
    ((∀ j : Fin numSlots, live 0#32 Regs.reset.slots[j] = true → Regs.reset.slots[j].chal ≠ 1#16) ∧
      live 0#32 Regs.reset.slots[0] = false) ∧
    ∀ j : Fin numSlots, live 1039#32 (fullTable 40#32).slots[j] = true ∧ (fullTable 40#32).slots[j].chal ≠ 5#16 := by
  decide

theorem witness_DataIsDeliveredAndAcknowledgedOrDropped :
    (count 0 24).length ≤ 24 ∧
    (live 999#32 (entryAt 4 1#16 2#16 0#32).slots[4] = true ∧ (entryAt 4 1#16 2#16 0#32).slots[4].iss = 2#16) ∧
    ∀ j : Fin numSlots, live 1000#32 (entryAt 4 1#16 2#16 0#32).slots[j] = true →
      (entryAt 4 1#16 2#16 0#32).slots[j].iss ≠ 2#16 := by decide

theorem witness_ReceivingAnEncodedMessageRunsIt :
    (Instr.data 1#16 2#16 (count 0 24)).space = .wire ∧ (Instr.data 1#16 2#16 (count 0 24)).WellFormed := by decide

/-- Two states that differ in the session only, and both kinds of message. -/
theorem witness_ResponderIgnoresTheSession :
    Receives (.reqn 1#16) (.reqn 1#16) ∧ Receives (.data 1#16 2#16 []) (.data 1#16 2#16 []) ∧
    (at_ sending).regs.slots = State.reset.regs.slots ∧ (at_ sending).now = State.reset.now ∧
    (at_ sending).rnd = State.reset.rnd ∧ completes (.reqn 1#16) State.reset = true ∧
    completes (.data 1#16 2#16 []) State.reset = true :=
  ⟨.inl rfl, .inl rfl, by decide, by decide, by decide, by decide, by decide⟩

theorem witness_DeliveryNeedsALiveHandshake :
    ((stateAfter (step { at_ (entryAt 0 1#16 0xBEEF#16 0#32) with
      inputs := [.command (by8 (0x50 :: 0x10 :: fData)) 999#32 0#16] })).map State.emitted) =
      some [.dlv [0xAA#8, 0xBB#8], .txf (by8 fAck)] := by decide

/-- An idle sender, a responder with only slot 4 free, 999 ms between its two operations, a body of 24 bytes; and a
responder with an empty table. -/
theorem witness_FullExchangeDeliversAndSucceeds :
    Regs.reset.phase = .idle ∧ (count 0 24).length ≤ 24 ∧
    (∀ j : Fin numSlots, live 41#32 ((fullTable 40#32).slots.set 4 Slot.reset)[j] = true →
      ((fullTable 40#32).slots.set 4 Slot.reset)[j].chal ≠ 9#16) ∧
    (∃ j : Fin numSlots, live 41#32 ((fullTable 40#32).slots.set 4 Slot.reset)[j] = false) ∧
    (1040#32 - 41#32).toNat < 1000 ∧ (∀ j : Fin numSlots, Regs.reset.slots[j].valid = false) := by decide

/-- Each case of the rule: a plain refusal, the oversize send, the timeout and the checksum mismatch. -/
theorem witness_ErrorStatusMeansNoEffectButThree :
    [exec .camCnt State.reset, exec (.camChk 1#16) State.reset, exec (.txSend (count 0 25)) State.reset,
        exec .txTick (at_ { sending with retriesLeft := 0#8 } 50#32), exec (.crcChk 0#16 []) State.reset].map
      (fun o => (stateAfter o).bind State.status) =
      [some .ok, some .eMiss, some .eLen, some .eTimeout, some .eCksum] := by decide

theorem witness_StatusesAreThoseOfTheTable :
    completes (.crcGen []) State.reset = true ∧ decode .host [] = .error .emptyRecord ∧
    decode .host (by8 [0x99]) = .error .illegalOpcode := by decide

theorem witness_EachStepEmitsAtMostOneBodyThenOneFrame :
    (stateAfter (step (given (0x50 :: 0x10 :: fReqn)))).isSome = true ∧
    (stateAfter (feed [.command [0x12#8] 1#32 0#16, .reset] State.reset)).isSome = true := by decide

theorem witness_ReadsHaveNoSideEffects :
    [Instr.crcRead, .camChk 0#16, .camRd 0#8, .camCnt, .txStat, .frmEnc [], .frmDec []].all
      (fun i => completes i State.reset) = true := by decide

theorem witness_OperationsDependOnRegistersAndInputsOnly :
    (given [0x00]).regs = State.reset.regs ∧ (at_ Regs.reset).now = State.reset.now ∧
    ({ State.reset with inputs := [.reset] } : State).rnd = State.reset.rnd ∧ completes .camCnt State.reset = true := by
  decide

/-- An operation without a draw, one with a draw, and one that does not sample `now`. -/
theorem witness_SampledInputsAreThoseOfTheAccessMatrix :
    (stateAfter (exec .camCnt State.reset)).map State.drew = some false ∧
    (stateAfter (exec (.camReq 1#16) State.reset)).map State.drew = some true ∧
    readsNow .txStat = false ∧ completes .txStat State.reset = true := by decide

theorem witness_RegisterInvariantsAreKeptByEveryStep :
    sendingData.Consistent ∧ (stateAfter (step { at_ sendingData with
      inputs := [.command [0x41#8] 60#32 0#16] })).isSome = true := by
  unfold Regs.Consistent; decide

theorem witness_DecodingAnEncodedInstructionGivesItBack :
    (Instr.rxFrame (List.replicate 255 0#8)).WellFormed ∧ (Instr.data 1#16 2#16 (count 0 24)).WellFormed := by decide

theorem witness_DecodedBytesAreTheEncoding :
    decode .host (by8 [0x30, 0x12, 0x34]) = .ok (.camReq 0x1234#16) ∧
    decode .wire (by8 [0x04, 0xCA, 0xFE]) = .ok (.ack 0xCAFE#16) := by decide

end Sys2Proof.Tests
end

section
/-! PROOFS. What one step puts out (spec/10_state.md R41, spec/20_memory.md R62): every well-formed instruction ends
with an effect whose emissions R41 allows, every record that decodes is such an instruction, and a run of inputs puts
out what its parts put out. Settles O52. -/

namespace Sys2Proof.Machine

/-! ### Decoded instructions are well-formed -/

/-- A count byte names no more than 255 bytes (R71). -/
theorem countable_of_countByte {p : Bytes} {n : Byte} (h : p.length = n.toNat) : Countable p := by
  have := n.isLt
  show p.length ≤ 255
  omega

/-- The instruction of a record has an encoding (R71, R72). -/
theorem decodeCommand_wellFormed {c : Bytes} {i : Instr} (h : decodeCommand c = .ok i) : i.WellFormed := by
  unfold decodeCommand at h
  split at h
  · cases h
  split at h
  · cases h
  rename_i l hl
  have hrow := opcodeLayout_cases hl
  obtain ⟨rfl, -⟩ | ⟨f, a, rfl, -, rfl⟩ | ⟨f, x, y, rfl, -, rfl⟩ | ⟨f, n, p, rfl, -, hp, rfl⟩ |
    ⟨f, x, y, n, p, rfl, -, hp, rfl⟩ := Layout.operands_ok h
  · simp only [Layout.c0.injEq, reduceCtorEq, and_false, false_or, or_false] at hrow
    obtain ⟨-, rfl⟩ | ⟨-, rfl⟩ | ⟨-, rfl⟩ | ⟨-, rfl⟩ | ⟨-, rfl⟩ | ⟨-, rfl⟩ := hrow <;> rfl
  · simp only [Layout.c1.injEq, reduceCtorEq, and_false, false_or, or_false] at hrow
    obtain ⟨-, rfl⟩ | ⟨-, rfl⟩ := hrow <;> rfl
  · simp only [Layout.c2.injEq, reduceCtorEq, and_false, false_or, or_false] at hrow
    obtain ⟨-, rfl⟩ | ⟨-, rfl⟩ := hrow <;> rfl
  · simp only [Layout.cv.injEq, reduceCtorEq, and_false, false_or] at hrow
    obtain ⟨-, rfl⟩ | ⟨-, rfl⟩ | ⟨-, rfl⟩ | ⟨-, rfl⟩ | ⟨-, rfl⟩ := hrow <;>
      exact decide_eq_true (countable_of_countByte hp)
  · simp only [Layout.ck.injEq, reduceCtorEq, and_false, false_or, or_false] at hrow
    obtain ⟨-, rfl⟩ := hrow
    exact decide_eq_true (countable_of_countByte hp)

/-- A decoded message has an encoding (R77 to R80). -/
theorem decodeMessage_wellFormed {m : Bytes} {msg : Message} (h : decodeMessage m = .ok msg) :
    msg.toInstr.WellFormed := by
  obtain ⟨a, b, -, rfl⟩ | ⟨a, b, c, d, -, rfl⟩ | ⟨a, b, c, d, p, -, hp, rfl⟩ | ⟨a, b, -, rfl⟩ :=
    decodeMessage_ok h
  · rfl
  · rfl
  · exact wellFormed_data_iff.mpr hp
  · rfl

/-! ### Emissions that R41 allows -/

/-- A well-formed message fits a frame (R74, R79). -/
theorem encodeMessage_length_le {msg : Message} (h : msg.toInstr.WellFormed) : (encodeMessage msg).length ≤ 29 := by
  cases msg with
  | reqn c => simp [encodeMessage]
  | nonce c i => simp [encodeMessage]
  | data i k b =>
    have hb : b.length ≤ 24 := wellFormed_data_iff.mp h
    simp only [encodeMessage, List.length_append, List.length_cons, List.length_nil]
    omega
  | ack k => simp [encodeMessage]

/-- The session transmits well-formed messages only (R33, R163). -/
theorem sessionData_wellFormed (r : Regs) : r.sessionData.toInstr.WellFormed :=
  wellFormed_data_iff.mpr r.storedBody_length_le

theorem emissionsAllowed_nil : EmissionsAllowed [] := .inl rfl

theorem emissionsAllowed_txMessage {msg : Message} (h : msg.toInstr.WellFormed) :
    EmissionsAllowed [txMessage msg] :=
  .inr (.inl ⟨_, rfl, frameEncode_sized (encodeMessage_length_le h)⟩)

theorem emissionsAllowed_dlv_txMessage {b : Bytes} {msg : Message} (hb : b.length ≤ 24)
    (h : msg.toInstr.WellFormed) : EmissionsAllowed [.dlv b, txMessage msg] :=
  .inr (.inr ⟨b, _, rfl, hb, frameEncode_sized (encodeMessage_length_le h)⟩)

/-! ### Every operation ends with an effect whose emissions R41 allows -/

/-- From `s` the operation ends with an effect whose emissions R41 allows. -/
def EndsAllowed (s : State) (o : Host.Outcome State Fault Refusal) : Prop :=
  ∃ e : Effect, o = s.complete e ∧ EmissionsAllowed e.emitted

section ends
variable (s : State)

theorem complete_endsAllowed {e : Effect} (h : EmissionsAllowed e.emitted) : EndsAllowed s (s.complete e) :=
  ⟨e, rfl, h⟩

theorem complete_endsAllowed_of_silent {e : Effect} (h : e.emitted = []) : EndsAllowed s (s.complete e) :=
  complete_endsAllowed s (h ▸ emissionsAllowed_nil)

theorem reject_endsAllowed (st : Status) : EndsAllowed s (s.reject st) :=
  complete_endsAllowed_of_silent s rfl

/-- An operation with a guard ends as its two ways on do. -/
theorem ite_endsAllowed {c : Prop} [Decidable c] {o o' : Host.Outcome State Fault Refusal} (ho : EndsAllowed s o)
    (ho' : EndsAllowed s o') : EndsAllowed s (if c then o else o') := by
  split
  · exact ho
  · exact ho'

theorem execFrmDec_endsAllowed (f : Bytes) : EndsAllowed s (execFrmDec f s) := by
  unfold execFrmDec
  split
  · exact reject_endsAllowed s _
  · exact complete_endsAllowed_of_silent s rfl

theorem execCamReq_endsAllowed (v : Nonce) : EndsAllowed s (execCamReq v s) := by
  unfold execCamReq
  split
  · exact reject_endsAllowed s _
  · exact complete_endsAllowed_of_silent s rfl
  · exact complete_endsAllowed_of_silent s rfl

theorem execCamChk_endsAllowed (v : Nonce) : EndsAllowed s (execCamChk v s) := by
  unfold execCamChk
  split
  · exact reject_endsAllowed s _
  · exact complete_endsAllowed_of_silent s rfl

theorem execCamRd_endsAllowed (a : Byte) : EndsAllowed s (execCamRd a s) := by
  unfold execCamRd
  split
  · exact complete_endsAllowed_of_silent s rfl
  · exact reject_endsAllowed s _

/-- `TX.SEND` emits the `REQN` of the session it starts, or nothing (R162). -/
theorem execTxSend_endsAllowed (p : Bytes) : EndsAllowed s (execTxSend p s) := by
  unfold execTxSend
  split
  · exact reject_endsAllowed s _
  split
  · exact complete_endsAllowed_of_silent s rfl
  · exact complete_endsAllowed s (emissionsAllowed_txMessage rfl)

/-- `TX.TICK` emits the message of its phase again, or nothing (R163). -/
theorem execTxTick_endsAllowed : EndsAllowed s (execTxTick s) := by
  unfold execTxTick
  split
  · exact complete_endsAllowed_of_silent s rfl
  split
  · exact complete_endsAllowed_of_silent s rfl
  split
  · exact complete_endsAllowed_of_silent s rfl
  · refine complete_endsAllowed s (emissionsAllowed_txMessage ?_)
    split
    · rfl
    · exact sessionData_wellFormed s.regs

theorem execReqn_endsAllowed (c : Nonce) : EndsAllowed s (execReqn c s) := by
  unfold execReqn
  split
  · exact reject_endsAllowed s _
  · exact complete_endsAllowed s (emissionsAllowed_txMessage rfl)
  · exact complete_endsAllowed s (emissionsAllowed_txMessage rfl)

theorem execNonce_endsAllowed (c i : Nonce) : EndsAllowed s (execNonce c i s) :=
  ite_endsAllowed s (complete_endsAllowed s (emissionsAllowed_txMessage (sessionData_wellFormed _)))
    (reject_endsAllowed s _)

/-- A `DATA` with a body that fits is delivered before its `ACK`, or dropped (R193). -/
theorem execData_endsAllowed (i k : Nonce) {b : Bytes} (hb : b.length ≤ 24) : EndsAllowed s (execData i k b s) := by
  unfold execData
  split
  · exact reject_endsAllowed s _
  · exact complete_endsAllowed s (emissionsAllowed_dlv_txMessage hb rfl)

/-- The reception of a well-formed message (R165, R166, R192, R193). -/
theorem exec_message_endsAllowed {msg : Message} (h : msg.toInstr.WellFormed) :
    EndsAllowed s (exec msg.toInstr s) := by
  cases msg with
  | reqn c => exact execReqn_endsAllowed s c
  | nonce c i => exact execNonce_endsAllowed s c i
  | data i k b => exact execData_endsAllowed s i k (wellFormed_data_iff.mp h)
  | ack k => exact ite_endsAllowed s (complete_endsAllowed_of_silent s rfl) (reject_endsAllowed s _)

/-- `RX.FRAME` refuses, or receives a decoded and so well-formed message (R191). -/
theorem exec_rxFrame_endsAllowed (f : Bytes) : EndsAllowed s (exec (.rxFrame f) s) := by
  obtain ⟨st, -, h⟩ | ⟨m, e, -, -, h⟩ | ⟨msg, hmsg, h⟩ := execRxFrame_cases f s
  · rw [h]; exact reject_endsAllowed s st
  · rw [h]; exact reject_endsAllowed s e.status
  · obtain ⟨m, -, hm⟩ := carriedMessage_eq_some.mp hmsg
    rw [h]; exact exec_message_endsAllowed s (decodeMessage_wellFormed hm)

/-- Every well-formed instruction ends with an effect whose emissions R41 allows. A `DATA` that no frame carries,
with a body over 24 bytes, is the only instruction that the premise is for. -/
theorem exec_endsAllowed {i : Instr} (h : i.WellFormed) : EndsAllowed s (exec i s) := by
  cases i with
  | sysReset => exact complete_endsAllowed_of_silent s rfl
  | crcInit => exact complete_endsAllowed_of_silent s rfl
  | crcByte a => exact complete_endsAllowed_of_silent s rfl
  | crcRead => exact complete_endsAllowed_of_silent s rfl
  | crcGen p => exact ite_endsAllowed s (reject_endsAllowed s _) (complete_endsAllowed_of_silent s rfl)
  | crcChk k p => exact ite_endsAllowed s (reject_endsAllowed s _) (complete_endsAllowed_of_silent s rfl)
  | frmEnc m => exact ite_endsAllowed s (reject_endsAllowed s _) (complete_endsAllowed_of_silent s rfl)
  | frmDec f => exact execFrmDec_endsAllowed s f
  | camReq v => exact execCamReq_endsAllowed s v
  | camChk v => exact execCamChk_endsAllowed s v
  | camRd a => exact execCamRd_endsAllowed s a
  | camCnt => exact complete_endsAllowed_of_silent s rfl
  | txSend p => exact execTxSend_endsAllowed s p
  | txTick => exact execTxTick_endsAllowed s
  | txStat => exact complete_endsAllowed_of_silent s rfl
  | rxFrame f => exact exec_rxFrame_endsAllowed s f
  | reqn c => exact exec_message_endsAllowed s (msg := .reqn c) h
  | nonce c n => exact exec_message_endsAllowed s (msg := .nonce c n) h
  | data n k b => exact exec_message_endsAllowed s (msg := .data n k b) h
  | ack k => exact exec_message_endsAllowed s (msg := .ack k) h

end ends

/-! ### Steps and runs of steps -/

/-- A step puts out nothing, where it takes no record, or it ends an operation on a record (R211, R221, R250). -/
theorem step_silent_or_endsAllowed (s : State) :
    (∃ t, step s = .next t ∧ t.outputs = []) ∨ ∃ s' : State, EndsAllowed s' (step s) := by
  cases hin : s.inputs with
  | nil => exact .inl ⟨s.idle, by rw [step, fetch_nothing hin], rfl⟩
  | cons x rest =>
    cases x with
    | reset => exact .inl ⟨State.hardReset { s with inputs := rest }, by rw [step, fetch_reset hin], rfl⟩
    | command record now rnd =>
      refine .inr ⟨{ s with inputs := rest, now := now, rnd := rnd }, ?_⟩
      cases hd : decodeCommand record with
      | ok i =>
        rw [step, fetch_command hin hd]
        exact exec_endsAllowed _ (decodeCommand_wellFormed hd)
      | error e =>
        rw [step, fetch_badRecord hin hd]
        exact reject_endsAllowed _ e.status

/-- What one step puts out: nothing, or allowed emissions and then one response (R41, R62). -/
theorem step_outputs {s t : State} (h : step s = .next t) :
    EmissionsAllowed t.emitted ∧
    (t.outputs = [] ∨ ∃ r : Response, t.outputs = t.emitted.map .emission ++ [.response r]) := by
  obtain ⟨u, hu, hout⟩ | ⟨s', e, he, hem⟩ := step_silent_or_endsAllowed s
  · obtain rfl : u = t := by simpa using hu.symm.trans h
    exact ⟨.inl (by simp [State.emitted, hout]), .inl hout⟩
  · obtain rfl : t = s'.finish e := (State.complete_next_iff s' e t).mp (he.symm.trans h)
    rw [State.finish_emitted]
    exact ⟨hem, .inr ⟨⟨e.status, e.result⟩, rfl⟩⟩

/-- A run puts out what its first part puts out, and then what the rest puts out from where that part ends (R62). -/
theorem outputTrace_append {first later : List HostInput} {s t : State} (h : feed first s = .next t) :
    outputTrace (first ++ later) s = outputTrace first s ++ outputTrace later t := by
  induction first generalizing s with
  | nil => cases h; rfl
  | cons x rest ih =>
    cases hx : step { s with inputs := [x] } with
    | next u =>
      simp only [feed, hx] at h
      simp only [List.cons_append, outputTrace, hx, ih h, List.append_assoc]
    | fault f => cases f
    | refused r => simp only [feed, hx] at h; cases h

/-- Settles O52: `step_outputs` for each step, `outputTrace_append` for the order of steps. -/
theorem eachStepEmitsAtMostOneBodyThenOneFrame : Obligations.EachStepEmitsAtMostOneBodyThenOneFrame :=
  ⟨fun _ _ h => step_outputs h, fun _ _ _ _ h => outputTrace_append h⟩

end Sys2Proof.Machine
end

section
/-! PROOFS. The CRC family (spec/40_crc.md R100 to R111): the checksum step and fold, the records and the effects of
the five commands, the byte-serial sequence, and that no operation outside the family reads or writes `ACC`. Settles
O8, O9, O14 to O19. -/

namespace Sys2Proof

/-! ### Records with a counted string (R71) -/

/-- A record of format `CV` whose count byte names its string's length. -/
theorem decode_host_cv {op n : Byte} {p : Bytes} {f : Bytes → Instr} (hl : opcodeLayout op = some (.cv f))
    (h : p.length = n.toNat) : decode .host (op :: n :: p) = .ok (f p) := by
  simp [decode, decodeCommand, hl, Layout.operands, h]

/-- A record of format `CK` whose count byte names its string's length. -/
theorem decode_host_ck {op x y n : Byte} {p : Bytes} {f : Cksum → Bytes → Instr}
    (hl : opcodeLayout op = some (.ck f)) (h : p.length = n.toNat) :
    decode .host (op :: x :: y :: n :: p) = .ok (f (be16 x y) p) := by
  simp [decode, decodeCommand, hl, Layout.operands, h]

end Sys2Proof

namespace Sys2Proof.Machine

/-! ### The checksum step and the checksum (R100, R101) -/

/-- The conditional form of R100. -/
theorem ckStep_eq_ite (acc : Cksum) (b : Byte) :
    ckStep acc b = (if acc.getLsbD 15 = true then (acc <<< 1) ||| 1#16 else acc <<< 1) ^^^ b.setWidth 16 := by
  have htop : acc.msb = acc.getLsbD 15 := BitVec.msb_eq_getLsbD_last acc
  rw [← htop]
  rfl

/-- The rotate form of R100: bit 15 comes round to bit 0, so both sides agree bit by bit. -/
theorem ckStep_eq_rotateLeft (acc : Cksum) (b : Byte) : ckStep acc b = acc.rotateLeft 1 ^^^ b.setWidth 16 := by
  refine BitVec.eq_of_getLsbD_eq fun i hi => ?_
  have hi : i < 16 := hi
  rw [ckStep_getLsbD acc b i hi, BitVec.getLsbD_xor, BitVec.getLsbD_rotateLeft]
  by_cases h0 : i = 0
  · simp [h0]
  · have hpos : ¬ i < 1 := by omega
    simp [h0, hi, hpos]

/-- Settles O8: `ckStep_eq_ite` and `ckStep_eq_rotateLeft`. -/
theorem checksumStepRotatesAndXors : Obligations.ChecksumStepRotatesAndXors :=
  fun acc b => ⟨ckStep_eq_ite acc b, ckStep_eq_rotateLeft acc b⟩

/-- Settles O9: the laws of the fold. -/
theorem checksumFoldsTheSteps : Obligations.ChecksumFoldsTheSteps :=
  ⟨cksum_nil, cksum_concat, payloadCksum_eq⟩

/-! ### A state with another value of `ACC` -/

/-- The state with this value of `ACC` and everything else as it was. -/
def State.setAcc (s : State) (a : Cksum) : State := { s with regs := { s.regs with acc := a } }

section setAcc
variable (s : State) (a : Cksum)

@[simp] theorem State.setAcc_acc : (s.setAcc a).regs.acc = a := rfl
@[simp] theorem State.setAcc_phase : (s.setAcc a).regs.phase = s.regs.phase := rfl
@[simp] theorem State.setAcc_slots : (s.setAcc a).regs.slots = s.regs.slots := rfl
@[simp] theorem State.setAcc_now : (s.setAcc a).now = s.now := rfl
@[simp] theorem State.setAcc_rnd : (s.setAcc a).rnd = s.rnd := rfl
@[simp] theorem State.setAcc_self : s.setAcc s.regs.acc = s := rfl

end setAcc

/-! ### The five commands (R104 to R108) -/

/-- `CRC.INIT` (R104). -/
theorem exec_crcInit (s : State) :
    exec .crcInit s = .next (s.finish { regs := { s.regs with acc := 0x1021#16 }, status := .ok }) := rfl

/-- `CRC.BYTE` (R105). -/
theorem exec_crcByte (a : Byte) (s : State) :
    exec (.crcByte a) s =
      .next (s.finish { regs := { s.regs with acc := ckStep s.regs.acc a }, status := .ok }) := rfl

/-- `CRC.READ` (R106). -/
theorem exec_crcRead (s : State) :
    exec .crcRead s =
      .next (s.finish { regs := s.regs, status := .ok, result := [hi s.regs.acc, lo s.regs.acc] }) := rfl

/-- `CRC.GEN` of more than 29 bytes answers `E_LEN` and writes nothing (R107). -/
theorem exec_crcGen_of_long {p : Bytes} (h : 29 < p.length) (s : State) :
    exec (.crcGen p) s = .next (s.finish { regs := s.regs, status := .eLen }) := if_pos h

/-- `CRC.GEN` of a legal length (R107). -/
theorem exec_crcGen_of_le {p : Bytes} (h : p.length ≤ 29) (s : State) :
    exec (.crcGen p) s =
      .next (s.finish
        { regs := { s.regs with acc := payloadCksum p }, status := .ok,
          result := [hi (payloadCksum p), lo (payloadCksum p)] }) := if_neg (Nat.not_lt.mpr h)

/-- `CRC.CHK` of more than 29 bytes answers `E_LEN` and writes nothing (R108). -/
theorem exec_crcChk_of_long (k : Cksum) {p : Bytes} (h : 29 < p.length) (s : State) :
    exec (.crcChk k p) s = .next (s.finish { regs := s.regs, status := .eLen }) := if_pos h

/-- `CRC.CHK` of a legal length writes and answers the recomputed checksum whether or not it matches (R108). -/
theorem exec_crcChk_of_le (k : Cksum) {p : Bytes} (h : p.length ≤ 29) (s : State) :
    exec (.crcChk k p) s =
      .next (s.finish
        { regs := { s.regs with acc := payloadCksum p },
          status := if payloadCksum p = k then .ok else .eCksum,
          result := [hi (payloadCksum p), lo (payloadCksum p)] }) := if_neg (Nat.not_lt.mpr h)

/-- Settles O14: the record of one byte and `exec_crcInit`. -/
theorem crcInitLoadsTheInitialValue : Obligations.CrcInitLoadsTheInitialValue :=
  ⟨rfl, exec_crcInit⟩

/-- Settles O15: the record of two bytes and `exec_crcByte`. -/
theorem crcByteStepsTheAccumulator : Obligations.CrcByteStepsTheAccumulator :=
  ⟨fun _ => rfl, exec_crcByte⟩

/-- Settles O16: the record of one byte and `exec_crcRead`. -/
theorem crcReadAnswersTheAccumulator : Obligations.CrcReadAnswersTheAccumulator :=
  ⟨rfl, exec_crcRead⟩

/-- Settles O18: a match and a mismatch decide the status of `exec_crcChk_of_le`, and a payload's own checksum is a
match. -/
theorem crcChkComparesTheRecomputedChecksum : Obligations.CrcChkComparesTheRecomputedChecksum := by
  refine ⟨fun h l n p hp => decode_host_ck rfl hp, fun k p s => ?_⟩
  refine ⟨fun hlong => exec_crcChk_of_long k hlong s, fun hle hmatch => ?_, fun hle hmiss => ?_, fun hle => ?_⟩
  · rw [exec_crcChk_of_le k hle, payloadCksum_eq, if_pos hmatch]
  · rw [exec_crcChk_of_le k hle, payloadCksum_eq, if_neg hmiss]
  · rw [exec_crcChk_of_le _ hle, payloadCksum_eq, if_pos rfl]

/-! ### The byte-serial sequence (R107) -/

/-- The state after an operation holds its registers and its outputs only, so a later one replaces both (R41). -/
@[simp] theorem State.finish_finish (s : State) (e e' : Effect) : (s.finish e).finish e' = s.finish e' := rfl

/-- A sequence of `CRC.BYTE` and a `CRC.READ` continues the fold from whatever `ACC` holds and answers it. -/
theorem execAll_crcBytes_crcRead (b : Bytes) (s : State) :
    execAll (b.map .crcByte ++ [.crcRead]) s =
      .next (s.finish
        { regs := { s.regs with acc := b.foldl ckStep s.regs.acc }, status := .ok,
          result := [hi (b.foldl ckStep s.regs.acc), lo (b.foldl ckStep s.regs.acc)] }) := by
  induction b generalizing s with
  | nil => rfl
  | cons x rest ih =>
    simp only [List.map_cons, List.cons_append, execAll, exec_crcByte, ih, List.foldl_cons, State.finish_finish,
      State.finish_regs]

/-- `CRC.INIT` before the sequence makes the fold the checksum of its bytes. -/
theorem execAll_crcInit_crcBytes_crcRead (b : Bytes) (s : State) :
    execAll (.crcInit :: (b.map .crcByte ++ [.crcRead])) s =
      .next (s.finish
        { regs := { s.regs with acc := cksum b }, status := .ok, result := [hi (cksum b), lo (cksum b)] }) := by
  rw [execAll, exec_crcInit]
  exact execAll_crcBytes_crcRead b _

/-- Settles O17: `CRC.GEN` by the length of its payload, and the sequence of the length byte and the payload. -/
theorem crcGenEqualsTheByteSerialSequence : Obligations.CrcGenEqualsTheByteSerialSequence := by
  refine ⟨fun n p hp => decode_host_cv rfl hp, fun p s => ?_⟩
  refine ⟨fun hlong => exec_crcGen_of_long hlong s, fun hle => ⟨exec_crcGen_of_le hle s, ?_⟩⟩
  rw [exec_crcGen_of_le hle]
  exact (execAll_crcInit_crcBytes_crcRead (countByte p :: p) s).symm

/-! ### `ACC` belongs to the family alone (R111)

An operation outside the family commutes with a write of `ACC`. That one equation says both halves of R111: for
another value of `ACC` the operation does the same, and, taken at the value `ACC` has, it leaves `ACC` alone. -/

/-- The outcome with this value of `ACC` in its next state. -/
def outcomeSetAcc (a : Cksum) : Host.Outcome State Fault Refusal → Host.Outcome State Fault Refusal
  | .next t => .next (t.setAcc a)
  | .fault r => .fault r
  | .refused r => .refused r

/-- The operation commutes with a write of `ACC` before it. -/
def IgnoresAcc (op : State → Host.Outcome State Fault Refusal) : Prop :=
  ∀ (s : State) (a : Cksum), op (s.setAcc a) = outcomeSetAcc a (op s)

theorem reject_ignoresAcc (st : Status) : IgnoresAcc fun s => s.reject st := fun _ _ => rfl

/-- A guard that does not look at `ACC` commutes with a write of it where its two ways on do. -/
theorem ite_outcomeSetAcc {c c' : Prop} [Decidable c] [Decidable c'] {a : Cksum}
    {o₁ o₁' o₂ o₂' : Host.Outcome State Fault Refusal} (hc : c' ↔ c) (h₁ : o₁' = outcomeSetAcc a o₁)
    (h₂ : o₂' = outcomeSetAcc a o₂) : (if c' then o₁' else o₂') = outcomeSetAcc a (if c then o₁ else o₂) :=
  (if_congr hc h₁ h₂).trans (apply_ite (outcomeSetAcc a) c o₁ o₂).symm

theorem execFrmEnc_ignoresAcc (m : Bytes) : IgnoresAcc (execFrmEnc m) :=
  fun _ _ => ite_outcomeSetAcc Iff.rfl rfl rfl

theorem execFrmDec_ignoresAcc (f : Bytes) : IgnoresAcc (execFrmDec f) := fun s a => by
  unfold execFrmDec
  split
  · rfl
  · rfl

theorem execCamReq_ignoresAcc (v : Nonce) : IgnoresAcc (execCamReq v) := fun s a => by
  simp only [execCamReq, State.setAcc_slots, State.setAcc_now, State.setAcc_rnd]
  split
  · rfl
  · rfl
  · rfl

theorem execCamChk_ignoresAcc (v : Nonce) : IgnoresAcc (execCamChk v) := fun s a => by
  simp only [execCamChk, State.setAcc_slots, State.setAcc_now]
  split
  · rfl
  · rfl

theorem execCamRd_ignoresAcc (i : Byte) : IgnoresAcc (execCamRd i) := fun s a => by
  simp only [execCamRd, State.setAcc_slots, State.setAcc_now]
  split
  · rfl
  · rfl

theorem execTxSend_ignoresAcc (p : Bytes) : IgnoresAcc (execTxSend p) :=
  fun _ _ => ite_outcomeSetAcc Iff.rfl rfl (ite_outcomeSetAcc Iff.rfl rfl rfl)

theorem execTxTick_ignoresAcc : IgnoresAcc execTxTick := fun s a => by
  simp only [execTxTick, State.setAcc_phase]
  split
  · rfl
  · exact ite_outcomeSetAcc Iff.rfl rfl (ite_outcomeSetAcc Iff.rfl rfl rfl)

theorem execReqn_ignoresAcc (c : Nonce) : IgnoresAcc (execReqn c) := fun s a => by
  simp only [execReqn, State.setAcc_slots, State.setAcc_now, State.setAcc_rnd]
  split
  · rfl
  · rfl
  · rfl

theorem execNonce_ignoresAcc (c i : Nonce) : IgnoresAcc (execNonce c i) :=
  fun _ _ => ite_outcomeSetAcc Iff.rfl rfl rfl

theorem execData_ignoresAcc (i k : Nonce) (b : Bytes) : IgnoresAcc (execData i k b) := fun s a => by
  simp only [execData, State.setAcc_slots, State.setAcc_now]
  split
  · rfl
  · rfl

theorem execAck_ignoresAcc (k : Nonce) : IgnoresAcc (execAck k) :=
  fun _ _ => ite_outcomeSetAcc Iff.rfl rfl rfl

/-- `RX.FRAME` refuses the frame or its message, or receives the message; the frame alone decides which (R191). -/
theorem execRxFrame_ignoresAcc (f : Bytes) : IgnoresAcc (execRxFrame f) := fun s a => by
  unfold execRxFrame dispatch
  split
  · exact reject_ignoresAcc _ s a
  split
  · exact reject_ignoresAcc _ s a
  · exact execReqn_ignoresAcc _ s a
  · exact execNonce_ignoresAcc _ _ s a
  · exact execData_ignoresAcc _ _ _ s a
  · exact execAck_ignoresAcc _ s a

/-- Every operation outside the CRC family but reset (R111). -/
theorem exec_ignoresAcc {i : Instr} (h : touchesAcc i = false) : IgnoresAcc (exec i) := by
  cases i with
  | sysReset => cases h
  | crcInit => cases h
  | crcByte a => cases h
  | crcRead => cases h
  | crcGen p => cases h
  | crcChk k p => cases h
  | frmEnc m => exact execFrmEnc_ignoresAcc m
  | frmDec f => exact execFrmDec_ignoresAcc f
  | camReq v => exact execCamReq_ignoresAcc v
  | camChk v => exact execCamChk_ignoresAcc v
  | camRd a => exact execCamRd_ignoresAcc a
  | camCnt => exact fun _ _ => rfl
  | txSend p => exact execTxSend_ignoresAcc p
  | txTick => exact execTxTick_ignoresAcc
  | txStat => exact fun _ _ => rfl
  | rxFrame f => exact execRxFrame_ignoresAcc f
  | reqn c => exact execReqn_ignoresAcc c
  | nonce c n => exact execNonce_ignoresAcc c n
  | data n k b => exact execData_ignoresAcc n k b
  | ack k => exact execAck_ignoresAcc k

/-- What ignores `ACC` keeps it: it commutes with writing the value `ACC` has. -/
theorem IgnoresAcc.acc_eq {op : State → Host.Outcome State Fault Refusal} (hop : IgnoresAcc op) {s t : State}
    (h : op s = .next t) : t.regs.acc = s.regs.acc := by
  have hself := hop s s.regs.acc
  rw [State.setAcc_self, h, outcomeSetAcc, Host.Outcome.next.injEq] at hself
  rw [hself, State.setAcc_acc]

/-- What ignores `ACC` does the same for another value of it. -/
theorem IgnoresAcc.next_setAcc {op : State → Host.Outcome State Fault Refusal} (hop : IgnoresAcc op) {s t : State}
    (h : op s = .next t) (a : Cksum) : op (s.setAcc a) = .next (t.setAcc a) := by
  rw [hop, h, outcomeSetAcc]

/-- `CRC.GEN` of a legal length overwrites whatever `ACC` held (R111). -/
theorem exec_crcGen_setAcc {p : Bytes} (h : p.length ≤ 29) (s : State) (a : Cksum) :
    exec (.crcGen p) (s.setAcc a) = exec (.crcGen p) s := by
  rw [exec_crcGen_of_le h, exec_crcGen_of_le h]
  rfl

/-- `CRC.CHK` of a legal length overwrites whatever `ACC` held (R111). -/
theorem exec_crcChk_setAcc (k : Cksum) {p : Bytes} (h : p.length ≤ 29) (s : State) (a : Cksum) :
    exec (.crcChk k p) (s.setAcc a) = exec (.crcChk k p) s := by
  rw [exec_crcChk_of_le k h, exec_crcChk_of_le k h]
  rfl

/-- Settles O19: `exec_ignoresAcc` for the operations outside the family, and the two that overwrite `ACC`. -/
theorem accumulatorIsPrivateToTheCrcFamily : Obligations.AccumulatorIsPrivateToTheCrcFamily :=
  ⟨fun _ _ _ hi h => ⟨(exec_ignoresAcc hi).acc_eq h, (exec_ignoresAcc hi).next_setAcc h⟩,
    fun k a _ s hp => ⟨exec_crcGen_setAcc hp s a, exec_crcChk_setAcc k hp s a⟩⟩

end Sys2Proof.Machine
end

section
/-! PROOFS. The frame codec (spec/41_frame.md R120 to R123): the bytes of an encoded frame, which of the five checks
stops a buffer, and the effects of `FRM.ENC` and `FRM.DEC`. Settles O20, O21. -/

namespace Sys2Proof.Machine

/-! ### The encoded frame and `FRM.ENC` (R120, R122) -/

/-- The size of a frame in the two sizes of R75. -/
theorem frameSize_eq_ite (n : Nat) : frameSize n = if n ≤ 13 then 16 else 32 := rfl

/-- Checksum, length, message and zero pad (R120, R122). -/
theorem frameEncode_eq (m : Bytes) :
    frameEncode m =
      [hi (payloadCksum m), lo (payloadCksum m), countByte m] ++ m ++
        List.replicate (frameSize m.length - 3 - m.length) 0#8 := rfl

/-- `FRM.ENC` of more than 29 bytes answers `E_LEN` (R122). -/
theorem exec_frmEnc_of_long {m : Bytes} (h : 29 < m.length) (s : State) :
    exec (.frmEnc m) s = .next (s.finish { regs := s.regs, status := .eLen }) := if_pos h

/-- `FRM.ENC` of a legal length answers the frame (R122). -/
theorem exec_frmEnc_of_le {m : Bytes} (h : m.length ≤ 29) (s : State) :
    exec (.frmEnc m) s = .next (s.finish { regs := s.regs, status := .ok, result := frameEncode m }) :=
  if_neg (Nat.not_lt.mpr h)

/-- Settles O20: `frameEncode_eq` and `frameEncode_length` for the frame, and `FRM.ENC` by the length of its
message. -/
theorem frmEncBuildsTheFrame : Obligations.FrmEncBuildsTheFrame := by
  refine ⟨fun n m hm => decode_host_cv rfl hm, fun m hm => ⟨frameEncode_eq m, ?_⟩, fun m s => ?_⟩
  · rw [frameEncode_length hm, frameSize_eq_ite]
  · exact ⟨fun hlong => exec_frmEnc_of_long hlong s, fun hle => exec_frmEnc_of_le hle s⟩

/-! ### The five checks (R121) -/

/-- The first check: a buffer is a whole number of blocks. -/
theorem frameDecode_of_unaligned {f : Bytes} (h : f.length % 16 ≠ 0) : frameDecode f = .error .eAlign := if_pos h

/-- The second check: a buffer of whole blocks is one or two of them. -/
theorem frameDecode_of_missized {f : Bytes} (ha : f.length % 16 = 0) (hs : f.length = 0 ∨ 32 < f.length) :
    frameDecode f = .error .eSize :=
  (if_neg (not_not.mpr ha)).trans (if_pos hs)

section sized
variable {c0 c1 n : Byte} {rest : Bytes}

/-- A buffer of one or two blocks passes the first two checks. -/
theorem frameDecode_of_sized (h : rest.length = 13 ∨ rest.length = 29) :
    frameDecode (c0 :: c1 :: n :: rest) =
      if 29 < n.toNat then .error .eLen
      else if rest.length < n.toNat then .error .eFit
      else if cksum (n :: rest.take n.toNat) ≠ be16 c0 c1 then .error .eCksum
      else .ok (rest.take n.toNat) := by
  have haligned : ¬ (rest.length + 3) % 16 ≠ 0 := by omega
  have hsize : ¬ 32 < rest.length + 3 := by omega
  rw [frameDecode_cons, if_neg haligned, if_neg hsize]

/-- The third check: the length byte names a legal message length. -/
theorem frameDecode_of_long (h : rest.length = 13 ∨ rest.length = 29) (hlong : 29 < n.toNat) :
    frameDecode (c0 :: c1 :: n :: rest) = .error .eLen := by
  rw [frameDecode_of_sized h, if_pos hlong]

/-- The fourth check: the message ends within the buffer. -/
theorem frameDecode_of_unfit (h : rest.length = 13 ∨ rest.length = 29) (hn : n.toNat ≤ 29)
    (hunfit : rest.length < n.toNat) : frameDecode (c0 :: c1 :: n :: rest) = .error .eFit := by
  rw [frameDecode_of_sized h, if_neg (Nat.not_lt.mpr hn), if_pos hunfit]

/-- The fifth check: the first two bytes are the checksum of the length byte and the message. -/
theorem frameDecode_of_mismatch (h : rest.length = 13 ∨ rest.length = 29) (hn : n.toNat ≤ 29)
    (hfit : n.toNat ≤ rest.length) (hmiss : cksum (n :: rest.take n.toNat) ≠ be16 c0 c1) :
    frameDecode (c0 :: c1 :: n :: rest) = .error .eCksum := by
  rw [frameDecode_of_sized h, if_neg (Nat.not_lt.mpr hn), if_neg (Nat.not_lt.mpr hfit), if_pos hmiss]

/-- A buffer that passes the five checks decodes to the bytes its length byte counts. -/
theorem frameDecode_of_match (h : rest.length = 13 ∨ rest.length = 29) (hn : n.toNat ≤ 29)
    (hfit : n.toNat ≤ rest.length) (hmatch : cksum (n :: rest.take n.toNat) = be16 c0 c1) :
    frameDecode (c0 :: c1 :: n :: rest) = .ok (rest.take n.toNat) := by
  rw [frameDecode_of_sized h, if_neg (Nat.not_lt.mpr hn), if_neg (Nat.not_lt.mpr hfit),
    if_neg (not_not.mpr hmatch)]

end sized

/-! ### `FRM.DEC` (R123) -/

/-- `FRM.DEC` of a rejected buffer answers the status of the check that failed. -/
theorem exec_frmDec_of_error {f : Bytes} {st : Status} (h : frameDecode f = .error st) (s : State) :
    exec (.frmDec f) s = .next (s.finish { regs := s.regs, status := st }) := by
  rw [exec, execFrmDec, h]
  rfl

/-- `FRM.DEC` of an accepted frame answers the length and the bytes of its message. -/
theorem exec_frmDec_of_ok {f m : Bytes} (h : frameDecode f = .ok m) (s : State) :
    exec (.frmDec f) s = .next (s.finish { regs := s.regs, status := .ok, result := countByte m :: m }) := by
  rw [exec, execFrmDec, h]
  rfl

/-- The length byte of a frame that its message fits counts the decoded message. -/
theorem countByte_take {n : Byte} {rest : Bytes} (h : n.toNat ≤ rest.length) :
    countByte (rest.take n.toNat) = n :=
  countByte_eq (List.length_take_of_le h)

/-- Settles O21: each check has its lemma about `frameDecode`, and `FRM.DEC` answers what `frameDecode` decides. -/
theorem frmDecChecksInOrder : Obligations.FrmDecChecksInOrder := by
  refine ⟨fun n f hf => decode_host_cv rfl hf, fun s => ⟨fun f ha => ?_, fun f ha hs => ?_, ?_⟩⟩
  · exact exec_frmDec_of_error (frameDecode_of_unaligned ha) s
  · exact exec_frmDec_of_error (frameDecode_of_missized ha hs) s
  intro c0 c1 n rest h
  refine ⟨fun hlong => ?_, fun hn hunfit => ?_, fun hn hfit hmiss => ?_, fun hn hfit hmatch => ?_⟩
  · exact exec_frmDec_of_error (frameDecode_of_long h hlong) s
  · exact exec_frmDec_of_error (frameDecode_of_unfit h hn hunfit) s
  · exact exec_frmDec_of_error (frameDecode_of_mismatch h hn hfit hmiss) s
  · rw [exec_frmDec_of_ok (frameDecode_of_match h hn hfit hmatch) s, countByte_take hfit]

end Sys2Proof.Machine
end

section
/-! PROOFS. The CAM family (spec/42_cam.md R140 to R146, spec/43_retry.md R160): the two time windows, what
`cam_request` and `cam_check` answer for a given table, and the effects of the four commands. Settles O24 to O28. -/

namespace Sys2Proof.Machine

/-! ### Time windows (R140, R160) -/

/-- The time between two readings of the counter is their distance, across a wrap too (R140). -/
theorem toNat_elapsed (t : Time) {d : Nat} (h : d < 2 ^ 32) : (t + BitVec.ofNat 32 d - t).toNat = d := by
  rw [add_sub_cancel_left, BitVec.toNat_ofNat]
  exact Nat.mod_eq_of_lt h

/-- The first half of the counter's range after a deadline is where it is due (R160). -/
theorem due_iff {now nextAt : Time} : due now nextAt = true ↔ (now - nextAt).toNat < 2 ^ 31 := decide_eq_true_iff

/-- Settles O24: `live_iff` and `due_iff` at the elapsed time `d`. -/
theorem liveAndDueAreModularWindows : Obligations.LiveAndDueAreModularWindows := by
  refine ⟨fun e d hd => ?_, fun nextAt d hd => ?_⟩
  · rw [Bool.eq_iff_iff, live_iff, toNat_elapsed e.t hd, Bool.and_eq_true, decide_eq_true_iff]
  · rw [Bool.eq_iff_iff, due_iff, toNat_elapsed nextAt hd, decide_eq_true_iff]

/-! ### `cam_request` (R141) -/

section request
variable {slots : Vector Slot numSlots} {v : Nonce} {now : Time} {i : Fin numSlots}

/-- The scan for a live match stops at the lowest one. -/
theorem firstSlot_match_eq_some (hlive : live now slots[i] = true) (hchal : slots[i].chal = v)
    (hlow : ∀ j : Fin numSlots, j < i → live now slots[j] = true → slots[j].chal ≠ v) :
    firstSlot (fun e => live now e && decide (e.chal = v)) slots = some i :=
  firstSlot_eq_some.mpr ⟨by simpa using ⟨hlive, hchal⟩, fun j hj => by simpa using hlow j hj⟩

/-- The scan for a live match finds nothing where no live slot holds the challenge. -/
theorem firstSlot_match_eq_none (hno : ∀ j : Fin numSlots, live now slots[j] = true → slots[j].chal ≠ v) :
    firstSlot (fun e => live now e && decide (e.chal = v)) slots = none :=
  firstSlot_eq_none.mpr fun j => by simpa using hno j

/-- The lowest live match is reused. -/
theorem camRequest_of_match (hlive : live now slots[i] = true) (hchal : slots[i].chal = v)
    (hlow : ∀ j : Fin numSlots, j < i → live now slots[j] = true → slots[j].chal ≠ v) (rnd : Nonce) :
    camRequest slots v now rnd = (.reused slots[i].iss i, slots) := by
  simp only [camRequest, firstSlot_match_eq_some hlive hchal hlow]

/-- Without a live match the lowest dead slot is written. -/
theorem camRequest_of_dead (hno : ∀ j : Fin numSlots, live now slots[j] = true → slots[j].chal ≠ v)
    (hdead : live now slots[i] = false) (hlow : ∀ j : Fin numSlots, j < i → live now slots[j] = true)
    (rnd : Nonce) :
    camRequest slots v now rnd = (.allocated rnd i, slots.set i ⟨true, v, rnd, now, .requestNonce⟩) := by
  have hscan : firstSlot (fun e => !live now e) slots = some i :=
    firstSlot_eq_some.mpr ⟨by simpa using hdead, fun j hj => by simpa using hlow j hj⟩
  simp only [camRequest, firstSlot_match_eq_none hno, hscan]

/-- A table of live slots with other challenges is full. -/
theorem camRequest_of_full (h : ∀ j : Fin numSlots, live now slots[j] = true ∧ slots[j].chal ≠ v) (rnd : Nonce) :
    camRequest slots v now rnd = (.full, slots) := by
  have hscan : firstSlot (fun e => !live now e) slots = none :=
    firstSlot_eq_none.mpr fun j => by simpa using (h j).1
  simp only [camRequest, firstSlot_match_eq_none fun j _ => (h j).2, hscan]

end request

/-! ### `CAM.REQ` and `CAM.CHK` (R143, R144) -/

section commands
variable {v : Nonce} {s : State}

/-- `CAM.REQ` that reuses an entry answers it and writes nothing. -/
theorem exec_camReq_of_reused {iss : Nonce} {i : Fin numSlots} {slots : Vector Slot numSlots}
    (h : camRequest s.regs.slots v s.now s.rnd = (.reused iss i, slots)) :
    exec (.camReq v) s =
      .next (s.finish { regs := s.regs, status := .ok, result := [0#8, hi iss, lo iss, slotByte i] }) := by
  rw [exec, execCamReq, h]
  rfl

/-- `CAM.REQ` that makes an entry answers it, writes the slots and has drawn. -/
theorem exec_camReq_of_allocated {iss : Nonce} {i : Fin numSlots} {slots : Vector Slot numSlots}
    (h : camRequest s.regs.slots v s.now s.rnd = (.allocated iss i, slots)) :
    exec (.camReq v) s =
      .next (s.finish
        { regs := { s.regs with slots := slots }, status := .ok,
          result := [1#8, hi iss, lo iss, slotByte i], drew := true }) := by
  rw [exec, execCamReq, h]
  rfl

/-- `CAM.REQ` at a full table answers `E_FULL`. -/
theorem exec_camReq_of_full {slots : Vector Slot numSlots}
    (h : camRequest s.regs.slots v s.now s.rnd = (.full, slots)) :
    exec (.camReq v) s = .next (s.finish { regs := s.regs, status := .eFull }) := by
  rw [exec, execCamReq, h]
  rfl

/-- `CAM.CHK` of a hit answers its slot. -/
theorem exec_camChk_of_hit {i : Fin numSlots} (h : camCheck s.regs.slots v s.now = some i) :
    exec (.camChk v) s = .next (s.finish { regs := s.regs, status := .ok, result := [slotByte i] }) := by
  rw [exec, execCamChk, h]
  rfl

/-- `CAM.CHK` of a miss answers `E_MISS`. -/
theorem exec_camChk_of_miss (h : camCheck s.regs.slots v s.now = none) :
    exec (.camChk v) s = .next (s.finish { regs := s.regs, status := .eMiss }) := by
  rw [exec, execCamChk, h]
  rfl

end commands

/-- Settles O25: `camRequest` in its three cases, and `CAM.REQ` for each reply. -/
theorem camReqReusesAllocatesOrIsFull : Obligations.CamReqReusesAllocatesOrIsFull := by
  refine ⟨fun _ _ => rfl, fun v s => ⟨fun i hlive hchal hlow => ?_, fun i hno hdead hlow => ?_, fun hfull => ?_⟩⟩
  · exact exec_camReq_of_reused (camRequest_of_match hlive hchal hlow s.rnd)
  · exact exec_camReq_of_allocated (camRequest_of_dead hno hdead hlow s.rnd)
  · exact exec_camReq_of_full (camRequest_of_full hfull s.rnd)

/-- Settles O26: `camCheck_eq_some` and `camCheck_eq_none` decide between hit and miss of `CAM.CHK`. -/
theorem camChkFindsTheLowestLiveIssuer : Obligations.CamChkFindsTheLowestLiveIssuer := by
  refine ⟨fun _ _ => rfl, fun v s => ⟨fun i hlive hiss hlow => ?_, fun hno => ?_⟩⟩
  · exact exec_camChk_of_hit (camCheck_eq_some.mpr ⟨⟨hlive, hiss⟩, hlow⟩)
  · exact exec_camChk_of_miss (camCheck_eq_none.mpr hno)

/-! ### `CAM.RD` (R145) -/

/-- The result byte of a slot index names the index. -/
theorem slotByte_toNat (i : Fin numSlots) : (slotByte i).toNat = i.val := by
  have hlt : i.val < 5 := i.isLt
  rw [slotByte, BitVec.toNat_ofNat]
  exact Nat.mod_eq_of_lt (by omega)

/-- `CAM.RD` of a slot's index answers the slot's ten bytes. -/
theorem exec_camRd_slotByte (i : Fin numSlots) (s : State) :
    exec (.camRd (slotByte i)) s =
      .next (s.finish { regs := s.regs, status := .ok, result := slotReadback s.now s.regs.slots[i] }) := by
  have hlt : (slotByte i).toNat < numSlots := (slotByte_toNat i).symm ▸ i.isLt
  rw [exec, execCamRd, dif_pos hlt]
  simp only [slotByte_toNat]
  rfl

/-- `CAM.RD` of an index from 5 on answers `E_IDX`. -/
theorem exec_camRd_of_ge {a : Byte} (h : 5 ≤ a.toNat) (s : State) :
    exec (.camRd a) s = .next (s.finish { regs := s.regs, status := .eIdx }) := dif_neg (Nat.not_lt.mpr h)

/-- Settles O27: `exec_camRd_slotByte` below 5 and `exec_camRd_of_ge` from 5 on. -/
theorem camRdAnswersTheSlotOrRefusesTheIndex : Obligations.CamRdAnswersTheSlotOrRefusesTheIndex :=
  ⟨fun _ => rfl, exec_camRd_slotByte, fun _ s h => exec_camRd_of_ge h s⟩

/-! ### `CAM.CNT` (R146) -/

/-- The slots in the order of their indices. -/
theorem toList_eq_map_finRange (slots : Vector Slot numSlots) :
    slots.toList = (List.finRange numSlots).map fun i => slots[i] :=
  List.ext_getElem (by simp) fun k _ _ => by simp

/-- The count of the live slots is the number of indices at which a live slot stands. -/
theorem liveCount_eq_card (slots : Vector Slot numSlots) (now : Time) :
    liveCount slots now = (Finset.univ.filter fun i : Fin numSlots => live now slots[i] = true).card := by
  rw [liveCount, toList_eq_map_finRange, List.countP_map, List.countP_eq_length_filter, Finset.card_def,
    Finset.filter_val, Fin.univ_def, Multiset.filter_coe, Multiset.coe_card]
  simp only [Function.comp_def, Bool.decide_eq_true]

/-- `CAM.CNT` (R146). -/
theorem exec_camCnt (s : State) :
    exec .camCnt s =
      .next (s.finish
        { regs := s.regs, status := .ok, result := [BitVec.ofNat 8 (liveCount s.regs.slots s.now)] }) := rfl

/-- Settles O28: `exec_camCnt`, and `liveCount_eq_card` for the number. -/
theorem camCntCountsTheLiveSlots : Obligations.CamCntCountsTheLiveSlots :=
  ⟨rfl, fun s => liveCount_eq_card s.regs.slots s.now ▸ exec_camCnt s⟩

end Sys2Proof.Machine
end

section
/-! PROOFS. The send session (spec/43_retry.md R162 to R166) and the responder beside it (R171): the effects of the TX
commands and of the four messages, by the case each of them takes, and that a `REQN` or a `DATA` works on the slots
alone. Settles O33 to O37, O46. -/

namespace Sys2Proof.Machine

/-! ### `TX.SEND` (R162) -/

/-- The store after a write: the new bytes, and the old ones beyond the new length (R33, R162). -/
theorem writeBody_getElem_eq_dite (p : Bytes) (body : Vector Byte bodyCapacity) (k : Nat) (h : k < bodyCapacity) :
    (writeBody p body)[k] = if h' : k < p.length then p[k] else body[k] := by
  rw [writeBody_getElem]
  split
  next hk => exact List.getD_eq_getElem p _ hk
  next hk => exact List.getD_eq_default p _ (Nat.not_lt.mp hk)

section send
variable {p : Bytes} {s : State}

/-- `TX.SEND` in flight answers `E_BUSY`, whatever the payload's length. -/
theorem exec_txSend_of_busy (h : s.regs.phase ≠ .idle) :
    exec (.txSend p) s = .next (s.finish { regs := s.regs, status := .eBusy }) := if_pos h

/-- `TX.SEND` of more than 24 bytes from `Idle` fails the send before it starts. -/
theorem exec_txSend_of_long (h : s.regs.phase = .idle) (hlong : 24 < p.length) :
    exec (.txSend p) s =
      .next (s.finish { regs := { s.regs with outcome := .failure }, status := .eLen }) :=
  (if_neg (not_not.mpr h)).trans (if_pos hlong)

/-- `TX.SEND` of a body that fits from `Idle` stores it, draws the challenge and enters phase 1. -/
theorem exec_txSend_of_le (h : s.regs.phase = .idle) (hle : p.length ≤ 24) :
    exec (.txSend p) s =
      .next (s.finish
        { regs :=
            { s.regs with
              bodyLen := BitVec.ofNat 5 p.length, body := writeBody p s.regs.body, chal := s.rnd,
              phase := .awaitingNonce, outcome := .pending, retriesLeft := 19#8, nextAt := s.now + 50#32 },
          status := .ok, emitted := [txMessage (.reqn s.rnd)], drew := true }) :=
  (if_neg (not_not.mpr h)).trans (if_neg (Nat.not_lt.mpr hle))

end send

/-- Settles O33: the three cases of `TX.SEND`, with `writeBody` for the stored body. -/
theorem txSendStartsASendOrRefuses : Obligations.TxSendStartsASendOrRefuses := by
  refine ⟨fun n p hp => decode_host_cv rfl hp, fun p s => ⟨fun hbusy => ?_, fun hidle hlong => ?_, fun hidle hle => ?_⟩⟩
  · exact exec_txSend_of_busy hbusy
  · exact exec_txSend_of_long hidle hlong
  · exact ⟨writeBody p s.regs.body, writeBody_getElem_eq_dite p s.regs.body, exec_txSend_of_le hidle hle⟩

/-! ### `TX.TICK` (R163) -/

section tick
variable {s : State}

/-- `TX.TICK` without a send in flight. -/
theorem exec_txTick_of_idle (h : s.regs.phase = .idle) :
    exec .txTick s = .next (s.finish { regs := s.regs, status := .ok, result := [0#8] }) := by
  rw [exec, execTxTick, h]
  rfl

/-- `TX.TICK` in flight: the deadline, then the budget, and else the phase's message once more. -/
theorem exec_txTick_of_inFlight (h : s.regs.phase ≠ .idle) :
    exec .txTick s =
      if !due s.now s.regs.nextAt then s.complete { regs := s.regs, status := .ok, result := [1#8] }
      else if s.regs.retriesLeft = 0#8 then
        s.complete { regs := { s.regs with phase := .idle, outcome := .failure }, status := .eTimeout }
      else
        s.complete
          { regs := s.regs.countRetransmission s.now, status := .ok, result := [2#8],
            emitted := [txMessage s.regs.sessionMessage] } := by
  rw [exec, execTxTick, Regs.sessionMessage]
  cases hphase : s.regs.phase with
  | idle => exact absurd hphase h
  | awaitingNonce => rfl
  | awaitingAck => rfl

/-- `TX.TICK` before the deadline waits. -/
theorem exec_txTick_of_waiting (h : s.regs.phase ≠ .idle) (hdue : due s.now s.regs.nextAt = false) :
    exec .txTick s = .next (s.finish { regs := s.regs, status := .ok, result := [1#8] }) := by
  rw [exec_txTick_of_inFlight h, hdue]
  rfl

/-- `TX.TICK` at a deadline without budget ends the send in failure. -/
theorem exec_txTick_of_timeout (h : s.regs.phase ≠ .idle) (hdue : due s.now s.regs.nextAt = true)
    (hleft : s.regs.retriesLeft = 0#8) :
    exec .txTick s =
      .next (s.finish { regs := { s.regs with phase := .idle, outcome := .failure }, status := .eTimeout }) := by
  rw [exec_txTick_of_inFlight h, hdue, if_pos hleft]
  rfl

/-- `TX.TICK` at a deadline with budget transmits the phase's message again; the new deadline is counted from now. -/
theorem exec_txTick_of_retransmission (h : s.regs.phase ≠ .idle) (hdue : due s.now s.regs.nextAt = true)
    (hleft : s.regs.retriesLeft ≠ 0#8) :
    exec .txTick s =
      .next (s.finish
        { regs := { s.regs with retriesLeft := s.regs.retriesLeft - 1#8, nextAt := s.now + 50#32 },
          status := .ok, result := [2#8], emitted := [txMessage s.regs.sessionMessage] }) := by
  rw [exec_txTick_of_inFlight h, hdue, if_neg hleft]
  rfl

/-- The message of phase 1 is the `REQN` of the challenge. -/
theorem sessionMessage_of_awaitingNonce {r : Regs} (h : r.phase = .awaitingNonce) :
    r.sessionMessage = .reqn r.chal := by
  rw [Regs.sessionMessage, h]
  rfl

/-- The message of phase 2 is the `DATA` with the stored body. -/
theorem sessionMessage_of_awaitingAck {r : Regs} (h : r.phase = .awaitingAck) :
    r.sessionMessage = .data r.issued r.corr r.storedBody := by
  rw [Regs.sessionMessage, h]
  rfl

end tick

/-- Settles O34: the four cases of `TX.TICK`, the last one with the message of either phase. -/
theorem txTickWaitsRetransmitsOrTimesOut : Obligations.TxTickWaitsRetransmitsOrTimesOut := by
  refine ⟨rfl, fun s => ⟨fun hidle => ?_, fun hflight hdue => ?_, fun hflight hdue hleft => ?_, fun hdue hleft => ?_⟩⟩
  · exact exec_txTick_of_idle hidle
  · exact exec_txTick_of_waiting hflight hdue
  · exact exec_txTick_of_timeout hflight hdue hleft
  refine ⟨fun hnonce => ?_, fun hack => ?_⟩
  · have hflight : s.regs.phase ≠ .idle := by simp [hnonce]
    rw [exec_txTick_of_retransmission hflight hdue hleft, sessionMessage_of_awaitingNonce hnonce]
    rfl
  · have hflight : s.regs.phase ≠ .idle := by simp [hack]
    rw [exec_txTick_of_retransmission hflight hdue hleft, sessionMessage_of_awaitingAck hack]
    rfl

/-! ### `TX.STAT` (R164) -/

/-- The encoding of `PHASE` as R26 lists it. -/
theorem Phase.code_eq_ite (p : Phase) :
    p.code = if p = .idle then 0#8 else if p = .awaitingNonce then 1#8 else 2#8 := by
  cases p <;> rfl

/-- The encoding of `OUTCOME` as R29 lists it. -/
theorem SendOutcome.code_eq_ite (o : SendOutcome) :
    o.code = if o = .pending then 0#8 else if o = .success then 1#8 else 2#8 := by
  cases o <;> rfl

/-- `TX.STAT` reports the session and changes nothing. -/
theorem exec_txStat (s : State) :
    exec .txStat s =
      .next (s.finish
        { regs := s.regs, status := .ok,
          result := [s.regs.phase.code, s.regs.outcome.code, s.regs.retriesLeft] }) := rfl

/-- Settles O35: `exec_txStat`, with the two encodings written out. -/
theorem txStatAnswersTheSession : Obligations.TxStatAnswersTheSession := by
  refine ⟨rfl, fun s => ?_⟩
  rw [exec_txStat, Phase.code_eq_ite, SendOutcome.code_eq_ite]

/-! ### The sender's messages (R165, R166) -/

section sender
variable {c n k : Nonce} {s : State}

/-- A `NONCE` for the challenge in phase 1 is stored, draws the token and enters phase 2. -/
theorem exec_nonce_of_match (h : s.regs.phase = .awaitingNonce) (hc : c = s.regs.chal) :
    exec (.nonce c n) s =
      .next (s.finish
        { regs :=
            { s.regs with
              issued := n, corr := s.rnd, phase := .awaitingAck, retriesLeft := 19#8, nextAt := s.now + 50#32 },
          status := .ok, result := [4#8], emitted := [txMessage (.data n s.rnd s.regs.storedBody)],
          drew := true }) := if_pos ⟨h, hc⟩

/-- Any other `NONCE` is ignored. -/
theorem exec_nonce_of_noMatch (h : s.regs.phase ≠ .awaitingNonce ∨ c ≠ s.regs.chal) :
    exec (.nonce c n) s = .next (s.finish { regs := s.regs, status := .eNomatch }) :=
  if_neg (not_and_or.mpr h)

/-- An `ACK` of the token in phase 2 ends the send in success. -/
theorem exec_ack_of_match (h : s.regs.phase = .awaitingAck) (hk : k = s.regs.corr) :
    exec (.ack k) s =
      .next (s.finish
        { regs := { s.regs with phase := .idle, outcome := .success }, status := .ok, result := [5#8] }) :=
  if_pos ⟨h, hk⟩

/-- Any other `ACK` is ignored. -/
theorem exec_ack_of_noMatch (h : s.regs.phase ≠ .awaitingAck ∨ k ≠ s.regs.corr) :
    exec (.ack k) s = .next (s.finish { regs := s.regs, status := .eNomatch }) :=
  if_neg (not_and_or.mpr h)

end sender

/-- Settles O36: the two cases of `NONCE`; neither looks at the deadline or the budget. -/
theorem nonceStartsTheDataPhaseOrIsIgnored : Obligations.NonceStartsTheDataPhaseOrIsIgnored :=
  ⟨fun _ _ _ _ => rfl, fun _ _ _ => ⟨exec_nonce_of_match, exec_nonce_of_noMatch⟩⟩

/-- Settles O37: the two cases of `ACK`. -/
theorem ackEndsTheSendOrIsIgnored : Obligations.AckEndsTheSendOrIsIgnored :=
  ⟨fun _ _ => rfl, fun _ _ => ⟨exec_ack_of_match, exec_ack_of_noMatch⟩⟩

/-! ### The responder's messages (R192, R193) -/

section responder
variable {c n k : Nonce} {b : Bytes} {s : State}

/-- A `REQN` that reuses an entry replies with its nonce and writes nothing. -/
theorem exec_reqn_of_reused {iss : Nonce} {i : Fin numSlots} {slots : Vector Slot numSlots}
    (h : camRequest s.regs.slots c s.now s.rnd = (.reused iss i, slots)) :
    exec (.reqn c) s =
      .next (s.finish
        { regs := s.regs, status := .ok, result := [1#8], emitted := [txMessage (.nonce c iss)] }) := by
  rw [exec, execReqn, h]
  rfl

/-- A `REQN` that makes an entry replies with its nonce, writes the slots and has drawn. -/
theorem exec_reqn_of_allocated {iss : Nonce} {i : Fin numSlots} {slots : Vector Slot numSlots}
    (h : camRequest s.regs.slots c s.now s.rnd = (.allocated iss i, slots)) :
    exec (.reqn c) s =
      .next (s.finish
        { regs := { s.regs with slots := slots }, status := .ok, result := [2#8],
          emitted := [txMessage (.nonce c iss)], drew := true }) := by
  rw [exec, execReqn, h]
  rfl

/-- A `REQN` at a full table answers `E_FULL`. -/
theorem exec_reqn_of_full {slots : Vector Slot numSlots}
    (h : camRequest s.regs.slots c s.now s.rnd = (.full, slots)) :
    exec (.reqn c) s = .next (s.finish { regs := s.regs, status := .eFull }) := by
  rw [exec, execReqn, h]
  rfl

/-- A `DATA` with a live nonce is delivered and acknowledged. -/
theorem exec_data_of_hit {i : Fin numSlots} (h : camCheck s.regs.slots n s.now = some i) :
    exec (.data n k b) s =
      .next (s.finish
        { regs := s.regs, status := .ok, result := [3#8], emitted := [.dlv b, txMessage (.ack k)] }) := by
  rw [exec, execData, h]
  rfl

/-- A `DATA` without a live nonce answers `E_MISS`. -/
theorem exec_data_of_miss (h : camCheck s.regs.slots n s.now = none) :
    exec (.data n k b) s = .next (s.finish { regs := s.regs, status := .eMiss }) := by
  rw [exec, execData, h]
  rfl

end responder

/-! ### Reception, alone or in a frame (R190, R191) -/

/-- `RX.FRAME` of a frame that carries a message does what the message does. -/
theorem exec_rxFrame_of_carried {f : Bytes} {msg : Message} (h : carriedMessage f = some msg) (s : State) :
    exec (.rxFrame f) s = exec msg.toInstr s := by
  obtain ⟨m, hf, hm⟩ := carriedMessage_eq_some.mp h
  obtain ⟨st, hst, -⟩ | ⟨m', e, hm', he, -⟩ | ⟨msg', hmsg', hexec⟩ := execRxFrame_cases f s
  · cases hf.symm.trans hst
  · cases hf.symm.trans hm'
    cases hm.symm.trans he
  · cases h.symm.trans hmsg'
    exact hexec

/-- The reception of a message does what the message does. -/
theorem Receives.exec_eq {i : Instr} {msg : Message} (h : Receives i msg) (s : State) :
    exec i s = exec msg.toInstr s := by
  obtain rfl | ⟨f, rfl, hf⟩ := h
  · rfl
  · exact exec_rxFrame_of_carried hf s

/-! ### The responder works on the slots alone (R171)

One effect serves every state with the same slots, `NOW` and `RND`, once the registers other than the slots are taken
from the state itself. That one equation says both halves of R171: the session is not read, and it is not written. -/

/-- What the responder can see of the two states is the same. -/
def SameForResponder (s s' : State) : Prop :=
  s'.regs.slots = s.regs.slots ∧ s'.now = s.now ∧ s'.rnd = s.rnd

/-- The effect with its slots written into these registers, and no other register changed. -/
def Effect.onSlotsOf (e : Effect) (r : Regs) : Effect := { e with regs := { r with slots := e.regs.slots } }

/-- The operation reads the slots, `NOW` and `RND` only, and writes the slots only. -/
def WorksOnSlots (op : State → Host.Outcome State Fault Refusal) : Prop :=
  ∀ s : State, ∃ e : Effect, ∀ s' : State, SameForResponder s s' → op s' = .next (s'.finish (e.onSlotsOf s'.regs))

/-- An effect that keeps the slots a state has keeps all its registers. -/
theorem Effect.onSlotsOf_self {e : Effect} {r : Regs} (h : r.slots = e.regs.slots) :
    e.onSlotsOf r = { e with regs := r } := by
  rw [Effect.onSlotsOf, ← h]

/-- `REQN` sees of the state what `cam_request` is given (R192). -/
theorem exec_reqn_worksOnSlots (c : Nonce) : WorksOnSlots (exec (.reqn c)) := by
  intro s
  obtain ⟨i, h, -⟩ | ⟨i, h, -⟩ | ⟨h, -⟩ := camRequest_cases s.regs.slots c s.now s.rnd
  · refine ⟨⟨s.regs, .ok, [1#8], [txMessage (.nonce c s.regs.slots[i].iss)], false⟩, ?_⟩
    rintro s' ⟨hslots, hnow, hrnd⟩
    rw [← hslots, ← hnow, ← hrnd] at h
    rw [exec_reqn_of_reused h, Effect.onSlotsOf_self hslots, hslots]
  · refine ⟨⟨{ s.regs with slots := s.regs.slots.set i ⟨true, c, s.rnd, s.now, .requestNonce⟩ }, .ok, [2#8],
      [txMessage (.nonce c s.rnd)], true⟩, ?_⟩
    rintro s' ⟨hslots, hnow, hrnd⟩
    rw [← hslots, ← hnow, ← hrnd] at h ⊢
    exact exec_reqn_of_allocated h
  · refine ⟨⟨s.regs, .eFull, [], [], false⟩, ?_⟩
    rintro s' ⟨hslots, hnow, hrnd⟩
    rw [← hslots, ← hnow, ← hrnd] at h
    rw [exec_reqn_of_full h, Effect.onSlotsOf_self hslots]

/-- `DATA` sees of the state what `cam_check` is given, and writes nothing (R193). -/
theorem exec_data_worksOnSlots (n k : Nonce) (b : Bytes) : WorksOnSlots (exec (.data n k b)) := by
  intro s
  cases h : camCheck s.regs.slots n s.now with
  | some i =>
    refine ⟨⟨s.regs, .ok, [3#8], [.dlv b, txMessage (.ack k)], false⟩, ?_⟩
    rintro s' ⟨hslots, hnow, -⟩
    rw [← hslots, ← hnow] at h
    rw [exec_data_of_hit h, Effect.onSlotsOf_self hslots]
  | none =>
    refine ⟨⟨s.regs, .eMiss, [], [], false⟩, ?_⟩
    rintro s' ⟨hslots, hnow, -⟩
    rw [← hslots, ← hnow] at h
    rw [exec_data_of_miss h, Effect.onSlotsOf_self hslots]

/-- The reception of a `REQN` or a `DATA`, alone or in a frame. -/
theorem worksOnSlots_of_receives {i : Instr}
    (h : (∃ c, Receives i (.reqn c)) ∨ ∃ n k b, Receives i (.data n k b)) : WorksOnSlots (exec i) := by
  obtain ⟨c, hc⟩ | ⟨n, k, b, hd⟩ := h
  · exact funext hc.exec_eq ▸ exec_reqn_worksOnSlots c
  · exact funext hd.exec_eq ▸ exec_data_worksOnSlots n k b

/-- Settles O46: `worksOnSlots_of_receives`, taken at the state itself and at the one that agrees with it. -/
theorem responderIgnoresTheSession : Obligations.ResponderIgnoresTheSession := by
  intro i s s' t hi hslots hnow hrnd hexec
  obtain ⟨e, he⟩ := worksOnSlots_of_receives hi s
  have hs := he s ⟨rfl, rfl, rfl⟩
  have hs' := he s' ⟨hslots, hnow, hrnd⟩
  obtain rfl : t = s.finish (e.onSlotsOf s.regs) := Host.Outcome.next.inj (hexec.symm.trans hs)
  exact ⟨rfl, _, hs', rfl, by simp [Effect.onSlotsOf], by simp [Effect.onSlotsOf], rfl⟩

end Sys2Proof.Machine
end

section
/-! PROOFS. Reception (spec/44_rx_dispatch.md R190, R192 to R194): which message each string of bytes is, what
`RX.FRAME` does for a frame that decodes or does not, and the responder's two messages. Settles O41, O43, O44. -/

namespace Sys2Proof

/-! ### Decoding a message by type and length (R76 to R80, R84) -/

section message
variable {ty : Byte} {fields b : Bytes}

/-- A `DATA` with a body that fits the body store. -/
theorem decodeMessage_data_of_le (ih il kh kl : Byte) (h : b.length ≤ 24) :
    decodeMessage (0x03#8 :: ih :: il :: kh :: kl :: b) = .ok (.data (be16 ih il) (be16 kh kl) b) := if_pos h

/-- A type byte that is none of the four is no message, whatever follows. -/
theorem decodeMessage_of_unknownType (h : ty ∉ [0x01#8, 0x02#8, 0x03#8, 0x04#8]) :
    decodeMessage (ty :: fields) = .error .unknownType := by
  simp only [List.mem_cons, List.not_mem_nil, or_false, not_or] at h
  obtain ⟨hreqn, hnonce, hdata, hack⟩ := h
  exact (if_neg hreqn).trans ((if_neg hnonce).trans ((if_neg hdata).trans (if_neg hack)))

/-- A `REQN` has two bytes after its type. -/
theorem decodeMessage_reqn_of_length_ne (h : fields.length ≠ 2) :
    decodeMessage (0x01#8 :: fields) = .error .badMessageLength := by
  unfold decodeMessage
  dsimp only
  rw [if_pos rfl]
  split
  · exact absurd rfl h
  · rfl

/-- A `NONCE` has four bytes after its type. -/
theorem decodeMessage_nonce_of_length_ne (h : fields.length ≠ 4) :
    decodeMessage (0x02#8 :: fields) = .error .badMessageLength := by
  unfold decodeMessage
  dsimp only
  rw [if_neg (by decide), if_pos rfl]
  split
  · exact absurd rfl h
  · rfl

/-- A `DATA` has at least four bytes after its type. -/
theorem decodeMessage_data_of_length_lt (h : fields.length < 4) :
    decodeMessage (0x03#8 :: fields) = .error .badMessageLength := by
  unfold decodeMessage
  dsimp only
  rw [if_neg (by decide), if_neg (by decide), if_pos rfl]
  split
  · simp only [List.length_cons] at h
    omega
  · rfl

/-- An `ACK` has two bytes after its type. -/
theorem decodeMessage_ack_of_length_ne (h : fields.length ≠ 2) :
    decodeMessage (0x04#8 :: fields) = .error .badMessageLength := by
  unfold decodeMessage
  dsimp only
  rw [if_neg (by decide), if_neg (by decide), if_neg (by decide), if_pos rfl]
  split
  · exact absurd rfl h
  · rfl

/-- A known type with a length that the type does not allow is no message. -/
theorem decodeMessage_of_badLength
    (h : (ty = 0x01#8 ∧ fields.length ≠ 2) ∨ (ty = 0x02#8 ∧ fields.length ≠ 4) ∨
      (ty = 0x03#8 ∧ fields.length < 4) ∨ (ty = 0x04#8 ∧ fields.length ≠ 2)) :
    decodeMessage (ty :: fields) = .error .badMessageLength := by
  obtain ⟨rfl, hlen⟩ | ⟨rfl, hlen⟩ | ⟨rfl, hlen⟩ | ⟨rfl, hlen⟩ := h
  · exact decodeMessage_reqn_of_length_ne hlen
  · exact decodeMessage_nonce_of_length_ne hlen
  · exact decodeMessage_data_of_length_lt hlen
  · exact decodeMessage_ack_of_length_ne hlen

end message

end Sys2Proof

namespace Sys2Proof.Machine

/-! ### `RX.FRAME` (R190, R194) -/

section rx
variable {f m : Bytes}

/-- `RX.FRAME` of a frame that does not decode answers the decoder's status. -/
theorem exec_rxFrame_of_frameError {st : Status} (h : frameDecode f = .error st) (s : State) :
    exec (.rxFrame f) s = .next (s.finish { regs := s.regs, status := st }) := by
  rw [exec, execRxFrame, h]
  rfl

/-- `RX.FRAME` of a frame whose payload is no message answers the reason's status. -/
theorem exec_rxFrame_of_messageError {e : DecodeError} (hf : frameDecode f = .ok m) (hm : decodeMessage m = .error e)
    (s : State) : exec (.rxFrame f) s = .next (s.finish { regs := s.regs, status := e.status }) := by
  rw [exec, execRxFrame, hf]
  simp only [dispatch, hm]
  rfl

/-- `RX.FRAME` of a frame whose payload is a message does what the message does, in every phase. -/
theorem exec_rxFrame_of_message {msg : Message} (hf : frameDecode f = .ok m) (hm : decodeMessage m = .ok msg)
    (s : State) : exec (.rxFrame f) s = exec msg.toInstr s :=
  exec_rxFrame_of_carried (carriedMessage_eq_some.mpr ⟨m, hf, hm⟩) s

/-- The body of a `DATA` that a frame carries fits: a payload has at most 29 bytes, five of them before the body. -/
theorem body_length_le_of_frameDecode {ty ih il kh kl : Byte} {b : Bytes}
    (hf : frameDecode f = .ok (ty :: ih :: il :: kh :: kl :: b)) : b.length ≤ 24 := by
  have hpayload := frameDecode_ok_length hf
  simp only [List.length_cons] at hpayload
  omega

end rx

/-- Settles O41: `RX.FRAME` follows `frameDecode` and then `decodeMessage`, whose answers go by type byte and length. -/
theorem rxFrameDispatchesByTypeAndLength : Obligations.RxFrameDispatchesByTypeAndLength := by
  refine ⟨fun n f hn => decode_host_cv rfl hn, fun f s => ⟨fun st hst => ?_, fun hempty => ?_, fun ty fields hf => ?_⟩⟩
  · exact exec_rxFrame_of_frameError hst s
  · exact exec_rxFrame_of_messageError hempty rfl s
  refine ⟨fun hty => ?_, fun hlen => ?_, ?reqn, ?nonce, ?data, ?ack⟩
  · exact exec_rxFrame_of_messageError hf (decodeMessage_of_unknownType hty) s
  · exact exec_rxFrame_of_messageError hf (decodeMessage_of_badLength hlen) s
  case reqn =>
    rintro h l rfl rfl
    exact exec_rxFrame_of_message hf rfl s
  case nonce =>
    rintro ch cl ih il rfl rfl
    exact exec_rxFrame_of_message hf rfl s
  case data =>
    rintro ih il kh kl b rfl rfl
    have hb : b.length ≤ 24 := body_length_le_of_frameDecode hf
    exact exec_rxFrame_of_message hf (decodeMessage_data_of_le ih il kh kl hb) s
  case ack =>
    rintro kh kl rfl rfl
    exact exec_rxFrame_of_message hf rfl s

/-! ### The responder's messages (R192, R193) -/

/-- Settles O43: `camRequest` in its three cases, and the reply of `REQN` for each. -/
theorem reqnRepliesOnReuseAndAllocation : Obligations.ReqnRepliesOnReuseAndAllocation := by
  refine ⟨fun _ _ => rfl, fun c s => ⟨fun i hlive hchal hlow => ?_, fun i hno hdead hlow => ?_, fun hfull => ?_⟩⟩
  · exact exec_reqn_of_reused (camRequest_of_match hlive hchal hlow s.rnd)
  · exact exec_reqn_of_allocated (camRequest_of_dead hno hdead hlow s.rnd)
  · exact exec_reqn_of_full (camRequest_of_full hfull s.rnd)

/-- A live slot that issued the nonce is a hit of `cam_check`, if not the hit: a lower slot may have issued it too. -/
theorem exists_camCheck_eq_some {slots : Vector Slot numSlots} {n : Nonce} {now : Time} {i : Fin numSlots}
    (hlive : live now slots[i] = true) (hiss : slots[i].iss = n) : ∃ j, camCheck slots n now = some j := by
  cases hcheck : camCheck slots n now with
  | some j => exact ⟨j, rfl⟩
  | none => exact absurd hiss (camCheck_eq_none.mp hcheck i hlive)

/-- Settles O44: `cam_check` decides; which slot it hits does not show in the effect. -/
theorem dataIsDeliveredAndAcknowledgedOrDropped : Obligations.DataIsDeliveredAndAcknowledgedOrDropped := by
  refine ⟨fun ih il kh kl b hb => ?_, fun n k b s => ⟨fun i hlive hiss => ?_, fun hno => ?_⟩⟩
  · rw [decode, decodeMessage_data_of_le ih il kh kl hb]
    rfl
  · obtain ⟨j, hcheck⟩ := exists_camCheck_eq_some hlive hiss
    exact exec_data_of_hit hcheck
  · exact exec_data_of_miss (camCheck_eq_none.mpr hno)

end Sys2Proof.Machine
end

section
/-! PROOFS. The command check and `SYS.RESET` (spec/45_system.md R210 to R213): which opcodes have which format, what
each format refuses, a step on a record that is no command, and the two resets. Settles O4, O5. -/

namespace Sys2Proof

/-! ### The operands that a format refuses (R71, R212) -/

section operands
variable {b : Bytes}

/-- `C0` takes no operand. -/
theorem Layout.operands_c0_of_ne_nil (i : Instr) (h : b ≠ []) : (Layout.c0 i).operands b = .error .malformedRecord :=
  match b, h with
  | [], h => absurd rfl h
  | _ :: _, _ => rfl

/-- `C1` takes one byte. -/
theorem Layout.operands_c1_of_length_ne (f : Byte → Instr) (h : b.length ≠ 1) :
    (Layout.c1 f).operands b = .error .malformedRecord :=
  match b, h with
  | [], _ => rfl
  | [_], h => absurd rfl h
  | _ :: _ :: _, _ => rfl

/-- `C2` takes two bytes. -/
theorem Layout.operands_c2_of_length_ne (f : Nonce → Instr) (h : b.length ≠ 2) :
    (Layout.c2 f).operands b = .error .malformedRecord :=
  match b, h with
  | [], _ => rfl
  | [_], _ => rfl
  | [_, _], h => absurd rfl h
  | _ :: _ :: _ :: _, _ => rfl

/-- `CV` takes a count byte and the bytes it counts. -/
theorem Layout.operands_cv_of_miscounted (f : Bytes → Instr)
    (h : b = [] ∨ ∃ n p, b = n :: p ∧ p.length ≠ n.toNat) :
    (Layout.cv f).operands b = .error .malformedRecord := by
  obtain rfl | ⟨n, p, rfl, hp⟩ := h
  · rfl
  · exact if_neg hp

/-- `CK` with fewer than its two bytes of checksum and its count byte. -/
theorem Layout.operands_ck_of_length_lt (f : Cksum → Bytes → Instr) (h : b.length < 3) :
    (Layout.ck f).operands b = .error .malformedRecord :=
  match b, h with
  | [], _ => rfl
  | [_], _ => rfl
  | [_, _], _ => rfl
  | _ :: _ :: _ :: p, h => absurd h (Nat.not_lt.mpr (Nat.le_add_left 3 p.length))

/-- `CK` takes two bytes of checksum, a count byte and the bytes it counts. -/
theorem Layout.operands_ck_of_miscounted (f : Cksum → Bytes → Instr)
    (h : b.length < 3 ∨ ∃ x y n p, b = x :: y :: n :: p ∧ p.length ≠ n.toNat) :
    (Layout.ck f).operands b = .error .malformedRecord := by
  obtain hlt | ⟨x, y, n, p, rfl, hp⟩ := h
  · exact Layout.operands_ck_of_length_lt f hlt
  · exact if_neg hp

end operands

/-! ### The opcodes of each format (R72, R83, R211) -/

section opcodes
variable {op : Byte}

/-- A byte that is none of the sixteen opcodes has no format. -/
theorem opcodeLayout_eq_none
    (h : op ∉ [0x00#8, 0x10#8, 0x11#8, 0x12#8, 0x13#8, 0x14#8, 0x20#8, 0x21#8, 0x30#8, 0x31#8, 0x32#8, 0x33#8,
      0x40#8, 0x41#8, 0x42#8, 0x50#8]) : opcodeLayout op = none := by
  cases hl : opcodeLayout op with
  | none => rfl
  | some l =>
    have hrow := opcodeLayout_cases hl
    simp only [List.mem_cons, List.not_mem_nil, or_false] at h
    tauto

theorem exists_opcodeLayout_c0 (h : op ∈ [0x00#8, 0x10#8, 0x12#8, 0x33#8, 0x41#8, 0x42#8]) :
    ∃ i, opcodeLayout op = some (.c0 i) := by
  simp only [List.mem_cons, List.not_mem_nil, or_false] at h
  obtain rfl | rfl | rfl | rfl | rfl | rfl := h <;> exact ⟨_, rfl⟩

theorem exists_opcodeLayout_c1 (h : op ∈ [0x11#8, 0x32#8]) : ∃ f, opcodeLayout op = some (.c1 f) := by
  simp only [List.mem_cons, List.not_mem_nil, or_false] at h
  obtain rfl | rfl := h <;> exact ⟨_, rfl⟩

theorem exists_opcodeLayout_c2 (h : op ∈ [0x30#8, 0x31#8]) : ∃ f, opcodeLayout op = some (.c2 f) := by
  simp only [List.mem_cons, List.not_mem_nil, or_false] at h
  obtain rfl | rfl := h <;> exact ⟨_, rfl⟩

theorem exists_opcodeLayout_cv (h : op ∈ [0x13#8, 0x20#8, 0x21#8, 0x40#8, 0x50#8]) :
    ∃ f, opcodeLayout op = some (.cv f) := by
  simp only [List.mem_cons, List.not_mem_nil, or_false] at h
  obtain rfl | rfl | rfl | rfl | rfl := h <;> exact ⟨_, rfl⟩

end opcodes

/-! ### Records that are no command (R211, R212) -/

section records
variable {op : Byte} {rest : Bytes}

/-- An opcode of no format makes no command, whatever follows it. -/
theorem decodeCommand_of_illegalOpcode (h : opcodeLayout op = none) :
    decodeCommand (op :: rest) = .error .illegalOpcode := by
  rw [decodeCommand, h]

/-- The operands of a legal opcode are read by its format. -/
theorem decodeCommand_of_layout {l : Layout} (h : opcodeLayout op = some l) :
    decodeCommand (op :: rest) = l.operands rest := by
  rw [decodeCommand, h]

/-- A legal opcode makes no command with a length that its format does not allow: the five formats in turn. -/
theorem decodeCommand_of_badLength
    (h : (op ∈ [0x00#8, 0x10#8, 0x12#8, 0x33#8, 0x41#8, 0x42#8] ∧ rest ≠ []) ∨
      (op ∈ [0x11#8, 0x32#8] ∧ rest.length ≠ 1) ∨ (op ∈ [0x30#8, 0x31#8] ∧ rest.length ≠ 2) ∨
      (op ∈ [0x13#8, 0x20#8, 0x21#8, 0x40#8, 0x50#8] ∧ (rest = [] ∨ ∃ n p, rest = n :: p ∧ p.length ≠ n.toNat)) ∨
      (op = 0x14#8 ∧ (rest.length < 3 ∨ ∃ x y n p, rest = x :: y :: n :: p ∧ p.length ≠ n.toNat))) :
    decodeCommand (op :: rest) = .error .malformedRecord := by
  obtain ⟨hop, hlen⟩ | ⟨hop, hlen⟩ | ⟨hop, hlen⟩ | ⟨hop, hlen⟩ | ⟨rfl, hlen⟩ := h
  · obtain ⟨i, hl⟩ := exists_opcodeLayout_c0 hop
    exact (decodeCommand_of_layout hl).trans (Layout.operands_c0_of_ne_nil i hlen)
  · obtain ⟨f, hl⟩ := exists_opcodeLayout_c1 hop
    exact (decodeCommand_of_layout hl).trans (Layout.operands_c1_of_length_ne f hlen)
  · obtain ⟨f, hl⟩ := exists_opcodeLayout_c2 hop
    exact (decodeCommand_of_layout hl).trans (Layout.operands_c2_of_length_ne f hlen)
  · obtain ⟨f, hl⟩ := exists_opcodeLayout_cv hop
    exact (decodeCommand_of_layout hl).trans (Layout.operands_cv_of_miscounted f hlen)
  · exact (decodeCommand_of_layout rfl).trans (Layout.operands_ck_of_miscounted .crcChk hlen)

end records

end Sys2Proof

namespace Sys2Proof.Machine

/-! ### A step on each kind of input (R211 to R213, R250) -/

section step
variable {s : State} {later : List HostInput}

/-- A record that is no command is answered with its reason's status, and nothing else happens. -/
theorem step_of_badRecord {record : Bytes} {now : Time} {rnd : Nonce} {e : DecodeError}
    (hin : s.inputs = .command record now rnd :: later) (hd : decodeCommand record = .error e) :
    step s = .next (State.finish { s with inputs := later, now := now, rnd := rnd }
      { regs := s.regs, status := e.status }) := by
  rw [step, fetch_badRecord hin hd]
  rfl

/-- A record that decodes runs its instruction. -/
theorem step_of_command {record : Bytes} {now : Time} {rnd : Nonce} {i : Instr}
    (hin : s.inputs = .command record now rnd :: later) (hd : decodeCommand record = .ok i) :
    step s = exec i { s with inputs := later, now := now, rnd := rnd } := by
  rw [step, fetch_command hin hd]

/-- The reset input. -/
theorem step_of_reset (hin : s.inputs = .reset :: later) :
    step s = .next (State.hardReset { s with inputs := later }) := by
  rw [step, fetch_reset hin]

end step

/-- Settles O4: `decodeCommand` finds the reason, and a step answers with the reason's status. -/
theorem commandChecksComeInOrder : Obligations.CommandChecksComeInOrder := by
  refine fun s now rnd later => ⟨fun hin => ?empty, fun op rest hin => ⟨fun hop => ?opcode, fun hlen => ?length,
    fun i hi => ?command⟩⟩
  case empty => exact step_of_badRecord hin rfl
  case opcode => exact step_of_badRecord hin (decodeCommand_of_illegalOpcode (opcodeLayout_eq_none hop))
  case length => exact step_of_badRecord hin (decodeCommand_of_badLength hlen)
  case command => exact step_of_command hin hi

/-! ### `SYS.RESET` (R210) -/

/-- The reset registers with every value written out (R251). -/
theorem Regs.reset_eq :
    Regs.reset =
      { acc := 0x1021#16, phase := .idle, outcome := .pending, retriesLeft := 0#8, nextAt := 0#32,
        chal := 0#16, issued := 0#16, corr := 0#16, bodyLen := 0#5, body := Vector.replicate 24 0#8,
        slots := Vector.replicate 5 ⟨false, 0#16, 0#16, 0#32, .requestNonce⟩ } := rfl

/-- `SYS.RESET` (R210). -/
theorem exec_sysReset (s : State) : exec .sysReset s = .next (s.finish { regs := Regs.reset, status := .ok }) := rfl

/-- Settles O5: `SYS.RESET` and the reset input both leave `Regs.reset`. -/
theorem sysResetRestoresEveryRegister : Obligations.SysResetRestoresEveryRegister := by
  refine ⟨rfl, fun s => ⟨?_, fun later hin => ?_⟩⟩
  · rw [exec_sysReset, Regs.reset_eq]
  · exact ⟨_, _, step_of_reset hin, exec_sysReset s, rfl⟩

end Sys2Proof.Machine
end

section
/-! PROOFS. No operation traps (spec/60_exceptions.md R221): every instruction ends with an effect, and every step takes
one input and ends. Settles O49. -/

namespace Sys2Proof.Machine

/-! ### Every instruction ends with an effect -/

theorem EndsAllowed.completes {s : State} {o : Host.Outcome State Fault Refusal} (h : EndsAllowed s o) :
    ∃ e, o = s.complete e := by
  obtain ⟨e, he, -⟩ := h
  exact ⟨e, he⟩

/-- A `DATA` is delivered or dropped, also with a body that no frame carries (R193). -/
theorem exec_data_completes (n k : Nonce) (b : Bytes) (s : State) : ∃ e, exec (.data n k b) s = s.complete e := by
  cases h : camCheck s.regs.slots n s.now with
  | none => exact ⟨_, exec_data_of_miss h⟩
  | some i => exact ⟨_, exec_data_of_hit h⟩

/-- Every instruction, with an encoding or without one, ends with an effect (R221): there is neither a fault nor a
refusal of the model. `exec_endsAllowed` says so where the instruction is well-formed, and the instructions with a string
end whatever its length. -/
theorem exec_completes (i : Instr) (s : State) : ∃ e, exec i s = s.complete e := by
  cases i with
  | crcGen | crcChk | frmEnc =>
    exact (ite_endsAllowed s (reject_endsAllowed s _) (complete_endsAllowed_of_silent s rfl)).completes
  | frmDec f => exact (execFrmDec_endsAllowed s f).completes
  | txSend p => exact (execTxSend_endsAllowed s p).completes
  | rxFrame f => exact (exec_rxFrame_endsAllowed s f).completes
  | data n k b => exact exec_data_completes n k b s
  | sysReset | crcInit | crcByte | crcRead | camReq | camChk | camRd | camCnt | txTick | txStat | reqn | nonce | ack =>
    exact (exec_endsAllowed s rfl).completes

/-! ### Every step ends -/

/-- An instruction ends in a state with a response, and writes neither the input ports nor the waiting inputs. -/
theorem exec_ends (i : Instr) (s : State) :
    ∃ t : State, exec i s = .next t ∧ t.rsp.isSome = true ∧ t.inputs = s.inputs ∧ t.now = s.now ∧ t.rnd = s.rnd := by
  obtain ⟨e, he⟩ := exec_completes i s
  exact ⟨s.finish e, he, by simp, rfl, rfl, rfl⟩

/-- A step takes the first input, if there is one, and ends (R38, R221). -/
theorem step_ends (s : State) : ∃ t : State, step s = .next t ∧ t.inputs = s.inputs.tail := by
  cases hin : s.inputs with
  | nil => exact ⟨s.idle, by rw [step, fetch_nothing hin], hin⟩
  | cons x later =>
    cases x with
    | reset => exact ⟨_, step_of_reset hin, rfl⟩
    | command record now rnd =>
      cases hd : decodeCommand record with
      | error e => exact ⟨_, step_of_badRecord hin hd, rfl⟩
      | ok i =>
        obtain ⟨t, ht, -, hinputs, -⟩ := exec_ends i { s with inputs := later, now := now, rnd := rnd }
        exact ⟨t, (step_of_command hin hd).trans ht, hinputs⟩

/-- Settles O49: `exec_ends` for the instructions, `step_ends` for the steps. -/
theorem everyOperationEndsWithAResponse : Obligations.EveryOperationEndsWithAResponse :=
  ⟨exec_ends, step_ends⟩

end Sys2Proof.Machine
end

section
/-! PROOFS. The state after reset (spec/70_reset_and_hazards.md R251). Settles O6. -/

namespace Sys2Proof.Machine

@[simp] theorem State.reset_regs : State.reset.regs = Regs.reset := rfl
@[simp] theorem State.reset_outputs : State.reset.outputs = [] := rfl

/-- Each body byte after reset. -/
@[simp] theorem Regs.reset_body_getElem (k : Fin bodyCapacity) : Regs.reset.body[k] = 0#8 := by
  simp [Regs.reset]

/-- Settles O6: the single registers are `Regs.reset_eq`, the slots and the body bytes have a lemma each. -/
theorem resetStateHasTheListedValues : Obligations.ResetStateHasTheListedValues := by
  refine ⟨?acc, fun i => ?slot, ?phase, ?outcome, ?retriesLeft, ?nextAt, ?chal, ?issued, ?corr, ?bodyLen, fun k => ?body,
    State.reset_outputs⟩
  case slot =>
    rw [State.reset_regs, Regs.reset_slot]
    exact ⟨rfl, rfl, rfl, rfl⟩
  case body => exact Regs.reset_body_getElem k
  all_goals rw [State.reset_regs, Regs.reset_eq]

end Sys2Proof.Machine
end

section
/-! PROOFS. Encoding and decoding are inverse (spec/30_encoding.md R71, R72, R76 to R80), in both spaces: every
well-formed instruction is read back from its bytes, and bytes that decode are the encoding of what they decode to.
Settles O2, O58, O59, O60. -/

namespace Sys2Proof

/-! ### From an instruction to its bytes and back -/

/-- A record with a 16-bit operand is read back. -/
theorem decode_host_c2 {op : Byte} {f : Nonce → Instr} (hl : opcodeLayout op = some (.c2 f)) (v : Nonce) :
    decode .host [op, hi v, lo v] = .ok (f v) := by
  simp only [decode, decodeCommand, hl, Layout.operands, be16_hi_lo]

/-- A record with a counted string is read back where the string is countable. -/
theorem decode_host_countByte {op : Byte} {f : Bytes → Instr} (hl : opcodeLayout op = some (.cv f)) {p : Bytes}
    (hp : Countable p) : decode .host (op :: countByte p :: p) = .ok (f p) :=
  decode_host_cv hl (countByte_toNat hp).symm

/-- A message is read back from its bytes (R76 to R81). -/
theorem decodeMessage_encodeMessage {msg : Message} (h : msg.toInstr.WellFormed) :
    decodeMessage (encodeMessage msg) = .ok msg := by
  cases msg with
  | reqn c =>
    show Except.ok (Message.reqn (be16 (hi c) (lo c))) = _
    rw [be16_hi_lo]
  | nonce c i =>
    show Except.ok (Message.nonce (be16 (hi c) (lo c)) (be16 (hi i) (lo i))) = _
    rw [be16_hi_lo, be16_hi_lo]
  | data i k b =>
    refine (decodeMessage_data_of_le (hi i) (lo i) (hi k) (lo k) (wellFormed_data_iff.mp h)).trans ?_
    rw [be16_hi_lo, be16_hi_lo]
  | ack k =>
    show Except.ok (Message.ack (be16 (hi k) (lo k))) = _
    rw [be16_hi_lo]

/-- Every wire message is the instruction of a message (R3). -/
theorem exists_message_of_space_wire {i : Instr} (h : i.space = .wire) : ∃ msg : Message, i = msg.toInstr := by
  cases i with
  | reqn c => exact ⟨.reqn c, rfl⟩
  | nonce c n => exact ⟨.nonce c n, rfl⟩
  | data n k b => exact ⟨.data n k b, rfl⟩
  | ack k => exact ⟨.ack k, rfl⟩
  | _ => cases h

/-- A well-formed wire message is read back in the wire space. -/
theorem decode_wire_encodeMessage {msg : Message} (h : msg.toInstr.WellFormed) :
    decode .wire (encodeMessage msg) = .ok msg.toInstr := by
  rw [decode, decodeMessage_encodeMessage h]
  rfl

/-- Settles O58: the commands go by the format of their record, the messages by `decode_wire_encodeMessage`. -/
theorem decodingAnEncodedInstructionGivesItBack : Obligations.DecodingAnEncodedInstructionGivesItBack := by
  intro i hwf
  cases i with
  | sysReset | crcInit | crcRead | camCnt | txTick | txStat => rfl
  | crcByte | camRd => rfl
  | camReq v | camChk v => exact decode_host_c2 rfl v
  | crcGen p | frmEnc p | frmDec p | txSend p | rxFrame p => exact decode_host_countByte rfl (of_decide_eq_true hwf)
  | crcChk k p =>
    have hp : Countable p := of_decide_eq_true hwf
    refine (decode_host_ck rfl (countByte_toNat hp).symm).trans ?_
    rw [be16_hi_lo]
  | reqn c => exact decode_wire_encodeMessage (msg := .reqn c) hwf
  | nonce c n => exact decode_wire_encodeMessage (msg := .nonce c n) hwf
  | data n k b => exact decode_wire_encodeMessage (msg := .data n k b) hwf
  | ack k => exact decode_wire_encodeMessage (msg := .ack k) hwf

/-! ### From bytes to an instruction and back -/

/-- The bytes of a message are the encoding of the message they decode to (R76 to R81). -/
theorem encodeMessage_of_decodeMessage {m : Bytes} {msg : Message} (h : decodeMessage m = .ok msg) :
    encodeMessage msg = m := by
  obtain ⟨a, b, rfl, rfl⟩ | ⟨a, b, c, d, rfl, rfl⟩ | ⟨a, b, c, d, p, rfl, -, rfl⟩ | ⟨a, b, rfl, rfl⟩ :=
    decodeMessage_ok h
  all_goals simp only [encodeMessage, hi_be16, lo_be16, List.cons_append, List.nil_append]

/-- The operands of an opcode are read into an instruction whose record they end (R71, R72). -/
theorem encode_of_operands {op : Byte} {l : Layout} {b : Bytes} {i : Instr} (hl : opcodeLayout op = some l)
    (h : l.operands b = .ok i) : i.space = .host ∧ encode i = op :: b := by
  have hrow := opcodeLayout_cases hl
  obtain ⟨rfl, rfl⟩ | ⟨f, a, rfl, rfl, rfl⟩ | ⟨f, x, y, rfl, rfl, rfl⟩ | ⟨f, n, p, rfl, rfl, hp, rfl⟩ |
    ⟨f, x, y, n, p, rfl, rfl, hp, rfl⟩ := Layout.operands_ok h
  · simp only [Layout.c0.injEq, reduceCtorEq, and_false, false_or, or_false] at hrow
    obtain ⟨rfl, rfl⟩ | ⟨rfl, rfl⟩ | ⟨rfl, rfl⟩ | ⟨rfl, rfl⟩ | ⟨rfl, rfl⟩ | ⟨rfl, rfl⟩ := hrow <;>
      exact ⟨rfl, rfl⟩
  · simp only [Layout.c1.injEq, reduceCtorEq, and_false, false_or, or_false] at hrow
    obtain ⟨rfl, rfl⟩ | ⟨rfl, rfl⟩ := hrow <;> exact ⟨rfl, rfl⟩
  · simp only [Layout.c2.injEq, reduceCtorEq, and_false, false_or, or_false] at hrow
    obtain ⟨rfl, rfl⟩ | ⟨rfl, rfl⟩ := hrow <;> exact ⟨rfl, by simp only [encode, hi_be16, lo_be16]⟩
  · simp only [Layout.cv.injEq, reduceCtorEq, and_false, false_or] at hrow
    obtain ⟨rfl, rfl⟩ | ⟨rfl, rfl⟩ | ⟨rfl, rfl⟩ | ⟨rfl, rfl⟩ | ⟨rfl, rfl⟩ := hrow <;>
      exact ⟨rfl, by simp only [encode, countByte_eq hp]⟩
  · simp only [Layout.ck.injEq, reduceCtorEq, and_false, false_or, or_false] at hrow
    obtain ⟨rfl, rfl⟩ := hrow
    exact ⟨rfl, by simp only [encode, hi_be16, lo_be16, countByte_eq hp]⟩

/-- The bytes of a record are the encoding of the command they decode to. -/
theorem encode_of_decodeCommand {c : Bytes} {i : Instr} (h : decodeCommand c = .ok i) :
    i.space = .host ∧ encode i = c := by
  unfold decodeCommand at h
  split at h
  · cases h
  split at h
  · cases h
  next hl => exact encode_of_operands hl h

/-- What decodes in the wire space is a message. -/
theorem decode_wire_ok {b : Bytes} {i : Instr} (h : decode .wire b = .ok i) :
    ∃ msg, decodeMessage b = .ok msg ∧ i = msg.toInstr := by
  cases hm : decodeMessage b with
  | error e => rw [decode, hm] at h; cases h
  | ok msg => rw [decode, hm] at h; cases h; exact ⟨msg, rfl, rfl⟩

theorem Message.toInstr_space (msg : Message) : msg.toInstr.space = .wire := by cases msg <;> rfl

theorem Message.encode_toInstr (msg : Message) : encode msg.toInstr = encodeMessage msg := by cases msg <;> rfl

/-- Settles O59: `encode_of_decodeCommand` for records, `encodeMessage_of_decodeMessage` for messages. -/
theorem decodedBytesAreTheEncoding : Obligations.DecodedBytesAreTheEncoding := by
  intro sp b i h
  cases sp with
  | host =>
    obtain ⟨hspace, hbytes⟩ := encode_of_decodeCommand h
    exact ⟨hspace, Machine.decodeCommand_wellFormed h, hbytes⟩
  | wire =>
    obtain ⟨msg, hm, rfl⟩ := decode_wire_ok h
    refine ⟨msg.toInstr_space, Machine.decodeMessage_wellFormed hm, ?_⟩
    rw [msg.encode_toInstr, encodeMessage_of_decodeMessage hm]

/-- Settles O60: the decoder run on the five strings. -/
theorem wordsOfTheSpecDecode : Obligations.WordsOfTheSpecDecode := ⟨rfl, rfl, rfl, rfl, rfl⟩

/-- Settles O2: `step_of_command`, and a decoded record is well-formed. -/
theorem stepRunsTheDecodedCommand : Obligations.StepRunsTheDecodedCommand :=
  fun _ _ _ _ _ _ hin hd => ⟨Machine.decodeCommand_wellFormed hd, Machine.step_of_command hin hd⟩

end Sys2Proof
end

section
/-! PROOFS. The round trips of the frame codec (spec/41_frame.md R124, R125), and reception of a frame that SNPE itself
would build (spec/30_encoding.md R70). Settles O22, O23, O45. -/

namespace Sys2Proof.Machine

/-! ### A frame is its header, its message and pad -/

/-- The first three bytes of a frame, the message and the pad. -/
theorem frameEncode_eq_cons (m : Bytes) :
    frameEncode m =
      hi (payloadCksum m) :: lo (payloadCksum m) :: countByte m ::
        (m ++ List.replicate (frameSize m.length - 3 - m.length) 0#8) := by
  rw [frameEncode_eq]
  rfl

/-- The count byte of a message that fits a frame. -/
theorem countByte_toNat_of_payload {m : Bytes} (h : m.length ≤ 29) : (countByte m).toNat = m.length :=
  countByte_toNat (h.trans (by decide))

/-- Behind the header an encoded frame has 13 or 29 bytes. -/
theorem length_message_pad {m : Bytes} (h : m.length ≤ 29) :
    (m ++ List.replicate (frameSize m.length - 3 - m.length) 0#8).length = 13 ∨
    (m ++ List.replicate (frameSize m.length - 3 - m.length) 0#8).length = 29 := by
  have hlen := frameEncode_sized h
  rw [FrameSized, frameEncode_eq_cons] at hlen
  simp only [List.length_cons] at hlen
  omega

/-- Decoding an encoded message gives it back. -/
theorem frameDecode_frameEncode {m : Bytes} (h : m.length ≤ 29) : frameDecode (frameEncode m) = .ok m := by
  have hn := countByte_toNat_of_payload h
  have htake : (m ++ List.replicate (frameSize m.length - 3 - m.length) 0#8).take (countByte m).toNat = m := by
    rw [hn, List.take_left]
  have hsum : cksum (countByte m :: m) = be16 (hi (payloadCksum m)) (lo (payloadCksum m)) :=
    (be16_hi_lo (payloadCksum m)).symm
  rw [frameEncode_eq_cons,
    frameDecode_of_match (length_message_pad h) (hn.trans_le h) (by rw [hn, List.length_append]; omega)
      (htake.symm ▸ hsum),
    htake]

/-- The header and the message of a frame, once it is known to be `c0 :: c1 :: n :: rest`. -/
theorem take_header_message (c0 c1 n : Byte) (rest : Bytes) (k : Nat) :
    (c0 :: c1 :: n :: rest).take (3 + k) = c0 :: c1 :: n :: rest.take k := by
  rw [Nat.add_comm, List.take_succ_cons, List.take_succ_cons, List.take_succ_cons]

/-- An accepted frame has the header and the message of its message's encoding; only the pad may differ. -/
theorem frameEncode_take_of_frameDecode {f m : Bytes} (h : frameDecode f = .ok m) :
    (frameEncode m).take (3 + m.length) = f.take (3 + m.length) := by
  obtain ⟨-, c0, c1, n, rest, rfl, -, -, hsum, hm, hlen⟩ := frameDecode_ok h
  have hsum : payloadCksum m = be16 c0 c1 := by rw [← hsum, ← countByte_eq hlen]; rfl
  rw [frameEncode_eq_cons, take_header_message, take_header_message, List.take_left, hsum, hi_be16, lo_be16,
    countByte_eq hlen, hlen, ← hm]

/-- Settles O22: `frameDecode_frameEncode` one way, `frameEncode_take_of_frameDecode` the other. -/
theorem frameEncodeDecodeRoundTrip : Obligations.FrameEncodeDecodeRoundTrip :=
  ⟨fun _ h => frameDecode_frameEncode h,
    fun _ _ h => ⟨frameDecode_ok_length h, frameEncode_take_of_frameDecode h⟩⟩

/-- A buffer with at least three bytes has a header. -/
theorem exists_header {g : Bytes} (h : 3 ≤ g.length) : ∃ d0 d1 d2 rest, g = d0 :: d1 :: d2 :: rest :=
  match g, h with
  | d0 :: d1 :: d2 :: rest, _ => ⟨d0, d1, d2, rest, rfl⟩

/-- Settles O23: the other frame has the same header and message, and the five checks look at nothing else. -/
theorem padBytesAreNotInspected : Obligations.PadBytesAreNotInspected := by
  intro f g m h hlen htake
  obtain ⟨hsize, c0, c1, n, rest, rfl, hn, hfit, hsum, hm, hmlen⟩ := frameDecode_ok h
  obtain ⟨d0, d1, d2, tail, rfl⟩ := exists_header (g := g) (by omega)
  rw [take_header_message, take_header_message, hmlen, ← hm] at htake
  simp only [List.cons.injEq] at htake
  obtain ⟨rfl, rfl, rfl, htail⟩ := htake
  simp only [List.length_cons] at hlen hsize hfit
  rw [frameDecode_of_match (by omega) hn (by omega) (htail.symm ▸ hsum), htail]

/-! ### Reception of an encoded message (R70, R120) -/

/-- The frame that carries a well-formed message. -/
theorem carriedMessage_frameEncode {msg : Message} (h : msg.toInstr.WellFormed) :
    carriedMessage (frameEncode (encodeMessage msg)) = some msg :=
  carriedMessage_eq_some.mpr
    ⟨_, frameDecode_frameEncode (encodeMessage_length_le h), decodeMessage_encodeMessage h⟩

/-- `RX.FRAME` of the frame of a well-formed message does what the message does. -/
theorem exec_rxFrame_frameEncode {msg : Message} (h : msg.toInstr.WellFormed) (s : State) :
    exec (.rxFrame (frameEncode (encodeMessage msg))) s = exec msg.toInstr s :=
  exec_rxFrame_of_carried (carriedMessage_frameEncode h) s

/-- Settles O45: every wire message is a `Message`, and its frame carries it. -/
theorem receivingAnEncodedMessageRunsIt : Obligations.ReceivingAnEncodedMessageRunsIt := by
  intro i s hspace hwf
  obtain ⟨msg, rfl⟩ := exists_message_of_space_wire hspace
  rw [msg.encode_toInstr, exec_rxFrame_frameEncode hwf]

end Sys2Proof.Machine
end

section
/-! PROOFS. What the checksum detects (spec/40_crc.md R102, R103, R110): a step rotates and exclusive-ors, so the
checksum is linear over exclusive-or, and a change of the string shows as the rotations of the changed bits. Settles
O10 to O13. -/

namespace Sys2Proof.Machine

/-! ### Rotations of 16 bits -/

/-- A bit of a rotation is the bit that lies so many places below, round the end. -/
theorem getLsbD_rotateLeft_mod (x : Cksum) (r : Nat) {i : Nat} (h : i < 16) :
    (x.rotateLeft r).getLsbD i = x.getLsbD ((i + 16 - r % 16) % 16) := by
  rw [BitVec.getLsbD_rotateLeft]
  by_cases hlow : i < r % 16
  · have hi : 16 - r % 16 + i = (i + 16 - r % 16) % 16 := by omega
    simp only [config_ckW, hlow, decide_true, cond_true, hi]
  · have hi : i - r % 16 = (i + 16 - r % 16) % 16 := by omega
    simp only [config_ckW, hlow, decide_false, cond_false, h, decide_true, Bool.true_and, hi]

theorem rotateLeft_zero (x : Cksum) : x.rotateLeft 0 = x := by
  refine BitVec.eq_of_getLsbD_eq fun i (hi : i < 16) => ?_
  rw [getLsbD_rotateLeft_mod x 0 hi]
  congr 1
  omega

/-- Rotations add up. -/
theorem rotateLeft_rotateLeft (x : Cksum) (a b : Nat) : (x.rotateLeft a).rotateLeft b = x.rotateLeft (a + b) := by
  refine BitVec.eq_of_getLsbD_eq fun i (hi : i < 16) => ?_
  rw [getLsbD_rotateLeft_mod _ b hi, getLsbD_rotateLeft_mod _ a (by omega), getLsbD_rotateLeft_mod _ _ hi]
  congr 1
  omega

/-- A whole turn is no rotation. -/
theorem rotateLeft_add_sixteen (x : Cksum) (r : Nat) : x.rotateLeft (r + 16) = x.rotateLeft r := by
  refine BitVec.eq_of_getLsbD_eq fun i (hi : i < 16) => ?_
  rw [getLsbD_rotateLeft_mod _ _ hi, getLsbD_rotateLeft_mod _ _ hi, Nat.add_mod_right]

/-- A rotation moves the bits of an exclusive-or alike. -/
theorem rotateLeft_xor (x y : Cksum) (r : Nat) :
    (x ^^^ y).rotateLeft r = x.rotateLeft r ^^^ y.rotateLeft r := by
  refine BitVec.eq_of_getLsbD_eq fun i (hi : i < 16) => ?_
  rw [BitVec.getLsbD_xor, getLsbD_rotateLeft_mod _ r hi, getLsbD_rotateLeft_mod _ r hi,
    getLsbD_rotateLeft_mod _ r hi, BitVec.getLsbD_xor]

/-- A rotation the rest of the way round undoes a rotation by one. -/
theorem rotateLeft_fifteen_one (x : Cksum) : (x.rotateLeft 15).rotateLeft 1 = x := by
  rw [rotateLeft_rotateLeft]
  exact (rotateLeft_add_sixteen x 0).trans (rotateLeft_zero x)

theorem zero_rotateLeft (r : Nat) : (0#16).rotateLeft r = 0#16 := by
  refine BitVec.eq_of_getLsbD_eq fun i (hi : i < 16) => ?_
  rw [getLsbD_rotateLeft_mod _ r hi, BitVec.getLsbD_zero, BitVec.getLsbD_zero]

/-- One bit, wherever it is rotated to, is not nothing. -/
theorem one_rotateLeft_ne_zero (r : Nat) : (1#16).rotateLeft r ≠ 0#16 := by
  intro h
  have hbit : ((1#16).rotateLeft r).getLsbD (r % 16) = true := by
    rw [getLsbD_rotateLeft_mod _ r (by omega), Nat.add_sub_cancel_left]
    rfl
  rw [h, BitVec.getLsbD_zero] at hbit
  cases hbit

/-- Bit `j` of a byte, as the checksum takes it in. -/
theorem setWidth_bit_eq_rotateLeft {j : Nat} (h : j < 8) : (1#8 <<< j).setWidth 16 = (1#16).rotateLeft j := by
  have hall : ∀ j : Fin 8, (1#8 <<< j.val).setWidth 16 = (1#16).rotateLeft j.val := by decide
  exact hall ⟨j, h⟩

/-! ### A step (R103) -/

/-- Settles O11: a step rotates by one and exclusive-ors the byte, and both can be undone. -/
theorem checksumStepIsBijective : Obligations.ChecksumStepIsBijective := by
  intro b
  refine Function.bijective_iff_has_inverse.mpr
    ⟨fun y => (y ^^^ b.setWidth 16).rotateLeft 15, fun acc => ?_, fun y => ?_⟩
  · show (ckStep acc b ^^^ b.setWidth 16).rotateLeft 15 = acc
    rw [ckStep_eq_rotateLeft, BitVec.xor_assoc, BitVec.xor_self, BitVec.xor_zero, rotateLeft_rotateLeft]
    exact (rotateLeft_add_sixteen acc 0).trans (rotateLeft_zero acc)
  · show ckStep ((y ^^^ b.setWidth 16).rotateLeft 15) b = y
    rw [ckStep_eq_rotateLeft, rotateLeft_fifteen_one, BitVec.xor_assoc, BitVec.xor_self, BitVec.xor_zero]

/-! ### The part of the checksum that the string alone decides (R102) -/

/-- The fold of the steps from 0. -/
def ckFold (s : Bytes) : Cksum := s.foldl ckStep 0#16

/-- The fold from any accumulator: the accumulator is rotated once per byte, and the bytes add their part. -/
theorem foldl_ckStep_eq (s : Bytes) (acc : Cksum) :
    s.foldl ckStep acc = acc.rotateLeft s.length ^^^ ckFold s := by
  induction s generalizing acc with
  | nil => exact ((BitVec.xor_zero).trans (rotateLeft_zero acc)).symm
  | cons b rest ih =>
    rw [ckFold, List.foldl_cons, List.foldl_cons, ih (ckStep acc b), ih (ckStep 0#16 b), ckStep_eq_rotateLeft,
      ckStep_eq_rotateLeft, zero_rotateLeft, BitVec.zero_xor, rotateLeft_xor, rotateLeft_rotateLeft, List.length_cons,
      Nat.add_comm 1, BitVec.xor_assoc]

theorem cksum_eq_ckFold (s : Bytes) : cksum s = (0x1021#16).rotateLeft s.length ^^^ ckFold s :=
  foldl_ckStep_eq s 0x1021#16

/-- A first byte ends up rotated by the number of bytes after it. -/
theorem ckFold_cons (b : Byte) (rest : Bytes) :
    ckFold (b :: rest) = (b.setWidth 16).rotateLeft rest.length ^^^ ckFold rest := by
  rw [ckFold, List.foldl_cons, foldl_ckStep_eq, ckStep_eq_rotateLeft, zero_rotateLeft, BitVec.zero_xor]

/-- An exclusive-or over a list takes its initial value along. -/
theorem foldl_xor_eq (l : List Cksum) (a : Cksum) : l.foldl (· ^^^ ·) a = a ^^^ l.foldl (· ^^^ ·) 0#16 := by
  induction l generalizing a with
  | nil => exact BitVec.xor_zero.symm
  | cons x xs ih =>
    rw [List.foldl_cons, List.foldl_cons, ih (a ^^^ x), ih (0#16 ^^^ x), BitVec.zero_xor, BitVec.xor_assoc]

/-- Every byte ends up rotated by its distance to the end. -/
theorem foldl_mapIdx_eq_ckFold (s : Bytes) :
    (s.mapIdx fun k b => (b.setWidth 16).rotateLeft (s.length - 1 - k)).foldl (· ^^^ ·) 0#16 = ckFold s := by
  induction s with
  | nil => rfl
  | cons b rest ih =>
    have hshift : ∀ k, (b :: rest).length - 1 - (k + 1) = rest.length - 1 - k := fun k => by
      rw [List.length_cons]
      omega
    rw [List.mapIdx_cons, List.foldl_cons, BitVec.zero_xor, foldl_xor_eq, ckFold_cons, ← ih]
    simp only [hshift]
    rfl

/-- Exclusive-or of two strings of one length is exclusive-or of their parts. -/
theorem ckFold_zipWith_xor {s d : Bytes} (h : s.length = d.length) :
    ckFold (List.zipWith (· ^^^ ·) s d) = ckFold s ^^^ ckFold d := by
  induction s generalizing d with
  | nil =>
    obtain rfl := List.length_eq_zero_iff.mp h.symm
    exact (BitVec.xor_zero).symm
  | cons b rest ih =>
    cases d with
    | nil => cases h
    | cons x xs =>
      have hlen : rest.length = xs.length := Nat.succ.inj h
      rw [List.zipWith_cons_cons, ckFold_cons, ckFold_cons, ckFold_cons, ih hlen, List.length_zipWith, hlen,
        Nat.min_self, BitVec.setWidth_xor, rotateLeft_xor]
      ac_rfl

/-- Settles O10: `cksum_eq_ckFold`, with the bytes' part written out and taken over an exclusive-or. -/
theorem checksumHasTheClosedForm : Obligations.ChecksumHasTheClosedForm := by
  refine ⟨fun s => ?_, fun s d h => ?_⟩
  · rw [foldl_mapIdx_eq_ckFold, cksum_eq_ckFold]
  · rw [cksum_eq_ckFold, cksum_eq_ckFold, ckFold_zipWith_xor h, List.length_zipWith, ← h, Nat.min_self, ← ckFold,
      BitVec.xor_assoc]

/-! ### Changed bits (R110) -/

/-- A change of byte `k` shows in the bytes' part as the changed bits, rotated by the distance to the end. -/
theorem ckFold_set_xor (s : Bytes) (k : Nat) (hk : k < s.length) (e : Byte) :
    ckFold (s.set k (s[k] ^^^ e)) = ckFold s ^^^ (e.setWidth 16).rotateLeft (s.length - 1 - k) := by
  induction s generalizing k with
  | nil => exact absurd hk (Nat.not_lt_zero k)
  | cons b rest ih =>
    cases k with
    | zero =>
      rw [List.getElem_cons_zero, List.set_cons_zero, ckFold_cons, ckFold_cons, BitVec.setWidth_xor, rotateLeft_xor,
        List.length_cons, Nat.sub_zero, Nat.add_sub_cancel]
      ac_rfl
    | succ k =>
      have hk' : k < rest.length := Nat.lt_of_succ_lt_succ hk
      have hshift : (b :: rest).length - 1 - (k + 1) = rest.length - 1 - k := by
        rw [List.length_cons]
        omega
      rw [List.getElem_cons_succ, List.set_cons_succ, ckFold_cons, ckFold_cons, ih k hk', List.length_set, hshift,
        BitVec.xor_assoc]

/-- A change of byte `k` shows in the checksum the same way. -/
theorem cksum_set_xor (s : Bytes) (k : Nat) (hk : k < s.length) (e : Byte) :
    cksum (s.set k (s[k] ^^^ e)) = cksum s ^^^ (e.setWidth 16).rotateLeft (s.length - 1 - k) := by
  rw [cksum_eq_ckFold, cksum_eq_ckFold, ckFold_set_xor, List.length_set, BitVec.xor_assoc]

/-- A change of bit `j` of byte `k` flips one bit of the checksum. -/
theorem cksum_set_bit (s : Bytes) (k : Nat) (hk : k < s.length) {j : Nat} (hj : j < 8) :
    cksum (s.set k (s[k] ^^^ (1#8 <<< j))) = cksum s ^^^ (1#16).rotateLeft (j + (s.length - 1 - k)) := by
  rw [cksum_set_xor, setWidth_bit_eq_rotateLeft hj, rotateLeft_rotateLeft]

/-- Changes of bit `i` of byte `k` and bit `j` of another byte `l` flip one bit of the checksum each. -/
theorem cksum_set_two_bits (s : Bytes) {k l : Nat} (hk : k < s.length) (hl : l < s.length) (hne : k ≠ l) {i j : Nat}
    (hi : i < 8) (hj : j < 8) :
    cksum ((s.set k (s[k] ^^^ (1#8 <<< i))).set l (s[l] ^^^ (1#8 <<< j))) =
      cksum s ^^^ ((1#16).rotateLeft (i + (s.length - 1 - k)) ^^^ (1#16).rotateLeft (j + (s.length - 1 - l))) := by
  have hother : (s.set k (s[k] ^^^ (1#8 <<< i)))[l]'(by rwa [List.length_set]) = s[l] := List.getElem_set_ne hne _
  rw [← hother, cksum_set_bit _ l _ hj, cksum_set_bit s k hk hi, List.length_set, BitVec.xor_assoc]

/-- Settles O12: `cksum_set_bit`, and a rotated bit is not nothing. -/
theorem singleBitChangeFlipsOneChecksumBit : Obligations.SingleBitChangeFlipsOneChecksumBit := by
  refine fun s k j hk hj => ⟨cksum_set_bit s k hk hj, fun hsame => ?_⟩
  rw [cksum_set_bit s k hk hj] at hsame
  exact one_rotateLeft_ne_zero _ ((BitVec.xor_right_inj (cksum s)).mp (hsame.trans BitVec.xor_zero.symm))

/-- Settles O13: in both families the two flipped bits of the checksum are the same one. -/
theorem someTwoBitChangesAreUndetected : Obligations.SomeTwoBitChangesAreUndetected := by
  refine ⟨fun s k j hk hj => ?_, fun s k j hk hj => ?_⟩
  · have hbit : j + (s.length - 1 - k) = (j + 1) + (s.length - 1 - (k + 1)) := by omega
    rw [cksum_set_two_bits s (by omega) hk (by omega) (by omega) (by omega), hbit, BitVec.xor_self, BitVec.xor_zero]
  · have hbit : j + (s.length - 1 - k) = j + (s.length - 1 - (k + 16)) + 16 := by omega
    rw [cksum_set_two_bits s (by omega) hk (by omega) hj hj, hbit, rotateLeft_add_sixteen, BitVec.xor_self,
      BitVec.xor_zero]

end Sys2Proof.Machine
end

section
/-! PROOFS. What an instruction can do, said once: `Does` has one constructor per kind of effect, `exec_does` says that
there is no other, and `step_cases` says the same of a step. -/

namespace Sys2Proof.Machine

/-! ### The kinds of effects -/

/-- The effects an instruction can have in the state `s`. -/
inductive Does (s : State) : Instr → Effect → Prop
  /-- A read, or a refusal: nothing is written or emitted, and only a read has a result. -/
  | quiet {i : Instr} {st : Status} {result : Bytes} (hst : st ∈ mayAnswer i) (hres : st ≠ .ok → result = []) :
      Does s i { regs := s.regs, status := st, result := result }
  /-- `SYS.RESET` (R210). -/
  | reset : Does s .sysReset { regs := Regs.reset, status := .ok }
  /-- `CRC.INIT`, `CRC.BYTE`, `CRC.GEN`, and `CRC.CHK` of a match (R104 to R108). -/
  | writeAcc {i : Instr} {acc : Cksum} {result : Bytes} (hi : touchesAcc i = true) (hst : .ok ∈ mayAnswer i) :
      Does s i { regs := { s.regs with acc := acc }, status := .ok, result := result }
  /-- `CRC.CHK` of a mismatch (R108). -/
  | mismatch {k : Cksum} {p : Bytes} :
      Does s (.crcChk k p)
        { regs := { s.regs with acc := payloadCksum p }, status := .eCksum,
          result := [hi (payloadCksum p), lo (payloadCksum p)] }
  /-- A request without a live match writes a dead slot (R143, R192). -/
  | allocate {i : Instr} {c : Nonce} {j : Fin numSlots} {result : Bytes} {emitted : List Emission}
      (hi : i = .camReq c ∨ Receives i (.reqn c)) (hem : ∀ b, .dlv b ∉ emitted)
      (hno : ∀ l : Fin numSlots, live s.now s.regs.slots[l] = true → s.regs.slots[l].chal ≠ c)
      (hdead : live s.now s.regs.slots[j] = false) :
      Does s i
        { regs := { s.regs with slots := s.regs.slots.set j ⟨true, c, s.rnd, s.now, .requestNonce⟩ }, status := .ok,
          result := result, emitted := emitted, drew := true }
  /-- A `REQN` with a live match replies with its nonce (R192). -/
  | reply {i : Instr} {c iss : Nonce} (hi : Receives i (.reqn c)) :
      Does s i { regs := s.regs, status := .ok, result := [1#8], emitted := [txMessage (.nonce c iss)] }
  /-- A `DATA` with a live nonce is delivered (R193). -/
  | deliver {i : Instr} {n k : Nonce} {b : Bytes} {j : Fin numSlots} (hi : Receives i (.data n k b))
      (hj : camCheck s.regs.slots n s.now = some j) :
      Does s i { regs := s.regs, status := .ok, result := [3#8], emitted := [.dlv b, txMessage (.ack k)] }
  /-- `TX.SEND` of more than 24 bytes from `Idle` (R162). -/
  | sendTooLong {p : Bytes} (hidle : s.regs.phase = .idle) (hlong : 24 < p.length) :
      Does s (.txSend p) { regs := { s.regs with outcome := .failure }, status := .eLen }
  /-- `TX.SEND` of a body that fits from `Idle` (R162). -/
  | send {p : Bytes} (hidle : s.regs.phase = .idle) (hle : p.length ≤ 24) :
      Does s (.txSend p)
        { regs :=
            { s.regs with
              bodyLen := BitVec.ofNat 5 p.length, body := writeBody p s.regs.body, chal := s.rnd,
              phase := .awaitingNonce, outcome := .pending, retriesLeft := 19#8, nextAt := s.now + 50#32 },
          status := .ok, emitted := [txMessage (.reqn s.rnd)], drew := true }
  /-- `TX.TICK` at a deadline without budget (R163). -/
  | timeout (hflight : s.regs.phase ≠ .idle) (hdue : due s.now s.regs.nextAt = true)
      (hleft : s.regs.retriesLeft = 0#8) :
      Does s .txTick { regs := { s.regs with phase := .idle, outcome := .failure }, status := .eTimeout }
  /-- `TX.TICK` at a deadline with budget (R163). -/
  | retransmit (hflight : s.regs.phase ≠ .idle) (hdue : due s.now s.regs.nextAt = true)
      (hleft : s.regs.retriesLeft ≠ 0#8) :
      Does s .txTick
        { regs := { s.regs with retriesLeft := s.regs.retriesLeft - 1#8, nextAt := s.now + 50#32 }, status := .ok,
          result := [2#8], emitted := [txMessage s.regs.sessionMessage] }
  /-- The `NONCE` for the challenge in phase 1 (R165). -/
  | enterData {i : Instr} {n : Nonce} (hi : Receives i (.nonce s.regs.chal n))
      (hphase : s.regs.phase = .awaitingNonce) :
      Does s i
        { regs :=
            { s.regs with
              issued := n, corr := s.rnd, phase := .awaitingAck, retriesLeft := 19#8, nextAt := s.now + 50#32 },
          status := .ok, result := [4#8], emitted := [txMessage (.data n s.rnd s.regs.storedBody)], drew := true }
  /-- The `ACK` of the token in phase 2 (R166). -/
  | succeed {i : Instr} (hi : Receives i (.ack s.regs.corr)) (hphase : s.regs.phase = .awaitingAck) :
      Does s i { regs := { s.regs with phase := .idle, outcome := .success }, status := .ok, result := [5#8] }

/-- The operation ends with an effect that the instruction can have. -/
def EndsAs (i : Instr) (s : State) (o : Host.Outcome State Fault Refusal) : Prop :=
  ∃ e, Does s i e ∧ o = .next (s.finish e)

section kinds
variable {s : State} {i : Instr} {o : Host.Outcome State Fault Refusal}

/-- A refusal. -/
theorem endsAs_of_refused {st : Status} (hst : st ∈ mayAnswer i)
    (h : o = .next (s.finish { regs := s.regs, status := st })) : EndsAs i s o :=
  ⟨_, .quiet hst fun _ => rfl, h⟩

/-- A read. -/
theorem endsAs_of_read {result : Bytes} (hst : .ok ∈ mayAnswer i)
    (h : o = .next (s.finish { regs := s.regs, status := .ok, result := result })) : EndsAs i s o :=
  ⟨_, .quiet hst fun hne => absurd rfl hne, h⟩

/-! ### The commands -/

theorem exec_crcGen_endsAs (p : Bytes) : EndsAs (.crcGen p) s (exec (.crcGen p) s) := by
  obtain hlong | hle := Nat.lt_or_ge 29 p.length
  · exact endsAs_of_refused (by simp [mayAnswer]) (exec_crcGen_of_long hlong s)
  · exact ⟨_, .writeAcc rfl (by simp [mayAnswer]), exec_crcGen_of_le hle s⟩

theorem exec_crcChk_endsAs (k : Cksum) (p : Bytes) : EndsAs (.crcChk k p) s (exec (.crcChk k p) s) := by
  obtain hlong | hle := Nat.lt_or_ge 29 p.length
  · exact endsAs_of_refused (by simp [mayAnswer]) (exec_crcChk_of_long k hlong s)
  rw [exec_crcChk_of_le k hle]
  by_cases hmatch : payloadCksum p = k
  · rw [if_pos hmatch]
    exact ⟨_, .writeAcc rfl (by simp [mayAnswer]), rfl⟩
  · rw [if_neg hmatch]
    exact ⟨_, .mismatch, rfl⟩

theorem exec_frmEnc_endsAs (m : Bytes) : EndsAs (.frmEnc m) s (exec (.frmEnc m) s) := by
  obtain hlong | hle := Nat.lt_or_ge 29 m.length
  · exact endsAs_of_refused (by simp [mayAnswer]) (exec_frmEnc_of_long hlong s)
  · exact endsAs_of_read (by simp [mayAnswer]) (exec_frmEnc_of_le hle s)

/-- The two operations that decode a frame may answer each of its errors. -/
theorem mem_mayAnswer_of_frameDecode_error {f : Bytes} {st : Status} (h : frameDecode f = .error st) (g : Bytes) :
    st ∈ mayAnswer (.frmDec g) ∧ st ∈ mayAnswer (.rxFrame g) := by
  obtain rfl | rfl | rfl | rfl | rfl := frameDecode_error h <;> simp [mayAnswer]

theorem exec_frmDec_endsAs (f : Bytes) : EndsAs (.frmDec f) s (exec (.frmDec f) s) := by
  cases h : frameDecode f with
  | error st => exact endsAs_of_refused (mem_mayAnswer_of_frameDecode_error h f).1 (exec_frmDec_of_error h s)
  | ok m => exact endsAs_of_read (by simp [mayAnswer]) (exec_frmDec_of_ok h s)

theorem exec_camReq_endsAs (v : Nonce) : EndsAs (.camReq v) s (exec (.camReq v) s) := by
  obtain ⟨j, h, -⟩ | ⟨j, h, hno, hdead, -⟩ | ⟨h, -⟩ := camRequest_cases s.regs.slots v s.now s.rnd
  · exact endsAs_of_read (by simp [mayAnswer]) (exec_camReq_of_reused h)
  · exact ⟨_, .allocate (.inl rfl) (fun _ => List.not_mem_nil) hno hdead, exec_camReq_of_allocated h⟩
  · exact endsAs_of_refused (by simp [mayAnswer]) (exec_camReq_of_full h)

theorem exec_camChk_endsAs (v : Nonce) : EndsAs (.camChk v) s (exec (.camChk v) s) := by
  cases h : camCheck s.regs.slots v s.now with
  | none => exact endsAs_of_refused (by simp [mayAnswer]) (exec_camChk_of_miss h)
  | some j => exact endsAs_of_read (by simp [mayAnswer]) (exec_camChk_of_hit h)

/-- `CAM.RD` of an index that some slot has answers that slot (R145). -/
theorem exec_camRd_of_lt {a : Byte} (h : a.toNat < 5) (s : State) :
    exec (.camRd a) s =
      .next (s.finish { regs := s.regs, status := .ok, result := slotReadback s.now s.regs.slots[a.toNat] }) :=
  dif_pos h

theorem exec_camRd_endsAs (a : Byte) : EndsAs (.camRd a) s (exec (.camRd a) s) := by
  obtain hlt | hge := Nat.lt_or_ge a.toNat 5
  · exact endsAs_of_read (by simp [mayAnswer]) (exec_camRd_of_lt hlt s)
  · exact endsAs_of_refused (by simp [mayAnswer]) (exec_camRd_of_ge hge s)

theorem exec_txSend_endsAs (p : Bytes) : EndsAs (.txSend p) s (exec (.txSend p) s) := by
  by_cases hidle : s.regs.phase = .idle
  · obtain hlong | hle := Nat.lt_or_ge 24 p.length
    · exact ⟨_, .sendTooLong hidle hlong, exec_txSend_of_long hidle hlong⟩
    · exact ⟨_, .send hidle hle, exec_txSend_of_le hidle hle⟩
  · exact endsAs_of_refused (by simp [mayAnswer]) (exec_txSend_of_busy hidle)

theorem exec_txTick_endsAs : EndsAs .txTick s (exec .txTick s) := by
  by_cases hidle : s.regs.phase = .idle
  · exact endsAs_of_read (by simp [mayAnswer]) (exec_txTick_of_idle hidle)
  cases hdue : due s.now s.regs.nextAt with
  | false => exact endsAs_of_read (by simp [mayAnswer]) (exec_txTick_of_waiting hidle hdue)
  | true =>
    by_cases hleft : s.regs.retriesLeft = 0#8
    · exact ⟨_, .timeout hidle hdue hleft, exec_txTick_of_timeout hidle hdue hleft⟩
    · exact ⟨_, .retransmit hidle hdue hleft, exec_txTick_of_retransmission hidle hdue hleft⟩

/-! ### The messages, alone or in a frame -/

/-- A message received in a frame may be answered with what the message may be answered with. -/
theorem Receives.mem_mayAnswer {msg : Message} {st : Status} (h : Receives i msg)
    (hst : st ∈ mayAnswer msg.toInstr) : st ∈ mayAnswer i := by
  obtain rfl | ⟨f, rfl, -⟩ := h
  · exact hst
  · have hsub : mayAnswer msg.toInstr ⊆ mayAnswer (.rxFrame f) := by cases msg <;> simp [mayAnswer, Message.toInstr]
    exact hsub hst

theorem exec_receives_reqn_endsAs {c : Nonce} (hi : Receives i (.reqn c)) : EndsAs i s (exec (.reqn c) s) := by
  obtain ⟨j, h, -⟩ | ⟨j, h, hno, hdead, -⟩ | ⟨h, -⟩ := camRequest_cases s.regs.slots c s.now s.rnd
  · exact ⟨_, .reply hi, exec_reqn_of_reused h⟩
  · exact ⟨_, .allocate (.inr hi) (by simp [txMessage]) hno hdead, exec_reqn_of_allocated h⟩
  · exact endsAs_of_refused (hi.mem_mayAnswer (by simp [mayAnswer, Message.toInstr])) (exec_reqn_of_full h)

theorem exec_receives_nonce_endsAs {c n : Nonce} (hi : Receives i (.nonce c n)) :
    EndsAs i s (exec (.nonce c n) s) := by
  by_cases h : s.regs.phase = .awaitingNonce ∧ c = s.regs.chal
  · obtain ⟨hphase, rfl⟩ := h
    exact ⟨_, .enterData hi hphase, exec_nonce_of_match hphase rfl⟩
  · exact endsAs_of_refused (hi.mem_mayAnswer (by simp [mayAnswer, Message.toInstr]))
      (exec_nonce_of_noMatch (not_and_or.mp h))

theorem exec_receives_data_endsAs {n k : Nonce} {b : Bytes} (hi : Receives i (.data n k b)) :
    EndsAs i s (exec (.data n k b) s) := by
  cases h : camCheck s.regs.slots n s.now with
  | none =>
    exact endsAs_of_refused (hi.mem_mayAnswer (by simp [mayAnswer, Message.toInstr])) (exec_data_of_miss h)
  | some j => exact ⟨_, .deliver hi h, exec_data_of_hit h⟩

theorem exec_receives_ack_endsAs {k : Nonce} (hi : Receives i (.ack k)) : EndsAs i s (exec (.ack k) s) := by
  by_cases h : s.regs.phase = .awaitingAck ∧ k = s.regs.corr
  · obtain ⟨hphase, rfl⟩ := h
    exact ⟨_, .succeed hi hphase, exec_ack_of_match hphase rfl⟩
  · exact endsAs_of_refused (hi.mem_mayAnswer (by simp [mayAnswer, Message.toInstr]))
      (exec_ack_of_noMatch (not_and_or.mp h))

/-- The reception of a message, alone or in a frame. -/
theorem exec_receives_endsAs {msg : Message} (hi : Receives i msg) : EndsAs i s (exec i s) := by
  rw [hi.exec_eq]
  cases msg with
  | reqn c => exact exec_receives_reqn_endsAs hi
  | nonce c n => exact exec_receives_nonce_endsAs hi
  | data n k b => exact exec_receives_data_endsAs hi
  | ack k => exact exec_receives_ack_endsAs hi

theorem exec_rxFrame_endsAs (f : Bytes) : EndsAs (.rxFrame f) s (exec (.rxFrame f) s) := by
  obtain ⟨st, hf, h⟩ | ⟨m, e, -, hm, h⟩ | ⟨msg, hmsg, -⟩ := execRxFrame_cases f s
  · exact endsAs_of_refused (mem_mayAnswer_of_frameDecode_error hf f).2 h
  · refine endsAs_of_refused ?_ h
    obtain hst | hst := decodeMessage_error_status hm <;> simp [mayAnswer, hst]
  · exact exec_receives_endsAs (.inr ⟨f, rfl, hmsg⟩)

/-! ### Every instruction and every step -/

/-- Every instruction has one of the effects of `Does`. -/
theorem exec_endsAs (i : Instr) (s : State) : EndsAs i s (exec i s) := by
  cases i with
  | sysReset => exact ⟨_, .reset, exec_sysReset s⟩
  | crcInit => exact ⟨_, .writeAcc rfl (by simp [mayAnswer]), exec_crcInit s⟩
  | crcByte a => exact ⟨_, .writeAcc rfl (by simp [mayAnswer]), exec_crcByte a s⟩
  | crcRead => exact endsAs_of_read (by simp [mayAnswer]) (exec_crcRead s)
  | crcGen p => exact exec_crcGen_endsAs p
  | crcChk k p => exact exec_crcChk_endsAs k p
  | frmEnc m => exact exec_frmEnc_endsAs m
  | frmDec f => exact exec_frmDec_endsAs f
  | camReq v => exact exec_camReq_endsAs v
  | camChk v => exact exec_camChk_endsAs v
  | camRd a => exact exec_camRd_endsAs a
  | camCnt => exact endsAs_of_read (by simp [mayAnswer]) (exec_camCnt s)
  | txSend p => exact exec_txSend_endsAs p
  | txTick => exact exec_txTick_endsAs
  | txStat => exact endsAs_of_read (by simp [mayAnswer]) (exec_txStat s)
  | rxFrame f => exact exec_rxFrame_endsAs f
  | reqn c => exact exec_receives_endsAs (msg := .reqn c) (.inl rfl)
  | nonce c n => exact exec_receives_endsAs (msg := .nonce c n) (.inl rfl)
  | data n k b => exact exec_receives_endsAs (msg := .data n k b) (.inl rfl)
  | ack k => exact exec_receives_endsAs (msg := .ack k) (.inl rfl)

/-- What an instruction did is one of the effects of `Does`. -/
theorem exec_does {t : State} (h : exec i s = .next t) : ∃ e, Does s i e ∧ t = s.finish e := by
  obtain ⟨e, he, hexec⟩ := exec_endsAs i s
  exact ⟨e, he, Host.Outcome.next.inj (h.symm.trans hexec)⟩

end kinds

/-- What a step did: it was idle, took the reset input, refused a record, or ran the command of a record. -/
theorem step_cases {s t : State} (h : step s = .next t) :
    t = s.idle ∨
    (∃ later, s.inputs = .reset :: later ∧ t = State.hardReset { s with inputs := later }) ∨
    ∃ record now rnd later, s.inputs = .command record now rnd :: later ∧
      ((∃ e : DecodeError, decodeCommand record = .error e ∧
          t = State.finish { s with inputs := later, now := now, rnd := rnd }
            { regs := s.regs, status := e.status }) ∨
        ∃ i e, decodeCommand record = .ok i ∧ Does { s with inputs := later, now := now, rnd := rnd } i e ∧
          t = State.finish { s with inputs := later, now := now, rnd := rnd } e) := by
  cases hin : s.inputs with
  | nil =>
    rw [step, fetch_nothing hin] at h
    exact .inl (Host.Outcome.next.inj h).symm
  | cons x later =>
    cases x with
    | reset =>
      rw [step_of_reset hin] at h
      exact .inr (.inl ⟨later, rfl, (Host.Outcome.next.inj h).symm⟩)
    | command record now rnd =>
      refine .inr (.inr ⟨record, now, rnd, later, rfl, ?_⟩)
      cases hd : decodeCommand record with
      | error e =>
        rw [step_of_badRecord hin hd] at h
        exact .inl ⟨e, rfl, (Host.Outcome.next.inj h).symm⟩
      | ok i =>
        rw [step_of_command hin hd] at h
        obtain ⟨e, he, ht⟩ := exec_does h
        exact .inr ⟨i, e, rfl, he, ht⟩

end Sys2Proof.Machine
end

section
/-! PROOFS. What the kinds of effects say together: which status comes with which effect (spec/60_exceptions.md R220,
R222), how the phase moves and what a send writes (spec/43_retry.md R161, R169), what a delivery needs
(spec/44_rx_dispatch.md R196), and the invariants of the registers (spec/10_state.md R34). Settles O38, O40, O47, O50,
O51, O53, O56. -/

namespace Sys2Proof.Machine

section does
variable {s : State} {i : Instr} {e : Effect}

/-! ### Statuses (R220, R222) -/

/-- An effect has a status that the table lets its instruction return. -/
theorem Does.status_mem (h : Does s i e) : e.status ∈ mayAnswer i := by
  cases h with
  | quiet hst => exact hst
  | writeAcc _ hst => exact hst
  | reset | mismatch | sendTooLong | send | timeout | retransmit => simp [mayAnswer]
  | allocate hi =>
    obtain rfl | hi := hi
    · simp [mayAnswer]
    · exact hi.mem_mayAnswer (by simp [mayAnswer, Message.toInstr])
  | reply hi | deliver hi | enterData hi | succeed hi => exact hi.mem_mayAnswer (by simp [mayAnswer, Message.toInstr])

/-- The sixteen codes in the order of the table. -/
theorem Status.code_toNat (st : Status) :
    st.code.toNat =
      [Status.ok, .eOp, .eFmt, .eLen, .eAlign, .eSize, .eFit, .eCksum, .eFull, .eMiss, .eBusy, .eType, .eMsg, .eIdx,
        .eTimeout, .eNomatch].idxOf st := by
  cases st <;> rfl

/-- Bytes that are no command answer `E_OP` or `E_FMT`: the operands of a format can only be malformed. -/
theorem decodeCommand_error_status {b : Bytes} {er : DecodeError} (h : decodeCommand b = .error er) :
    er.status = .eOp ∨ er.status = .eFmt := by
  unfold decodeCommand at h
  split at h
  · cases h; exact .inr rfl
  split at h
  · cases h; exact .inl rfl
  unfold Layout.operands at h
  repeat' split at h
  all_goals cases h
  all_goals exact .inr rfl

/-- Settles O51: the codes, `Does.status_mem`, and the errors of the record decoder. -/
theorem statusesAreThoseOfTheTable : Obligations.StatusesAreThoseOfTheTable := by
  refine ⟨Status.code_toNat, fun i s t h => ?_, fun b er h => decodeCommand_error_status h⟩
  obtain ⟨e, he, rfl⟩ := exec_does h
  exact ⟨e.status, he.status_mem, State.finish_status s e⟩

/-- Settles O50: the kinds with a status other than `OK` are the quiet one and the three of R222. -/
theorem errorStatusMeansNoEffectButThree : Obligations.ErrorStatusMeansNoEffectButThree := by
  intro i s t st result h hrsp hne
  obtain ⟨e, he, rfl⟩ := exec_does h
  rw [State.finish_rsp, Option.some.injEq, Response.mk.injEq] at hrsp
  obtain ⟨rfl, rfl⟩ := hrsp
  rw [State.finish_emitted, State.finish_drew, State.finish_regs]
  cases he with
  | quiet _ hres => exact ⟨rfl, rfl, .inl ⟨rfl, hres hne⟩⟩
  | mismatch => exact ⟨rfl, rfl, .inr (.inr (.inr ⟨_, _, rfl, rfl, rfl, rfl⟩))⟩
  | sendTooLong => exact ⟨rfl, rfl, .inr (.inl ⟨rfl, ⟨_, rfl⟩, rfl, rfl⟩)⟩
  | timeout => exact ⟨rfl, rfl, .inr (.inr (.inl ⟨rfl, rfl, rfl, rfl⟩))⟩
  | reset | writeAcc | allocate | reply | deliver | send | retransmit | enterData | succeed => exact absurd rfl hne

/-! ### The phase (R161) -/

/-- Settles O38: the kinds that write `PHASE` are the listed transitions. -/
theorem phaseTransitionsAreComplete : Obligations.PhaseTransitionsAreComplete := by
  intro i s t h
  obtain ⟨e, he, rfl⟩ := exec_does h
  rw [State.finish_regs]
  cases he with
  | quiet | writeAcc | mismatch | allocate | reply | deliver | sendTooLong | retransmit => exact .inl rfl
  | reset => exact .inr (.inl ⟨rfl, rfl, rfl⟩)
  | send hidle hle => exact .inr (.inr (.inl ⟨hidle, rfl, rfl, _, rfl, hle⟩))
  | timeout hflight hdue hleft => exact .inr (.inr (.inr (.inl ⟨hflight, rfl, rfl, rfl, hdue, hleft⟩)))
  | enterData hi hphase => exact .inr (.inr (.inr (.inr (.inl ⟨hphase, rfl, _, hi, rfl⟩))))
  | succeed hi hphase => exact .inr (.inr (.inr (.inr (.inr ⟨hphase, rfl, rfl, hi⟩))))

/-! ### What a send writes and transmits (R169) -/

/-- The challenge and the body are written by `TX.SEND` from `Idle` only, and by reset. -/
theorem Does.chal_body_eq (h : Does s i e) (hreset : i ≠ .sysReset)
    (hsend : (∀ p, i ≠ .txSend p) ∨ s.regs.phase ≠ .idle) :
    e.regs.chal = s.regs.chal ∧ e.regs.bodyLen = s.regs.bodyLen ∧ e.regs.body = s.regs.body := by
  cases h with
  | reset => exact absurd rfl hreset
  | send hidle => exact absurd hidle (hsend.resolve_left fun hno => hno _ rfl)
  | _ => exact ⟨rfl, rfl, rfl⟩

/-- The issued nonce and the token are written by the `NONCE` of phase 1 only, and by reset. -/
theorem Does.issued_corr_eq (h : Does s i e) (hreset : i ≠ .sysReset)
    (hnonce : (∀ c n : Nonce, ¬ Receives i (.nonce c n)) ∨ s.regs.phase ≠ .awaitingNonce) :
    e.regs.issued = s.regs.issued ∧ e.regs.corr = s.regs.corr := by
  cases h with
  | reset => exact absurd rfl hreset
  | enterData hi hphase => exact absurd hphase (hnonce.resolve_left fun hno => hno _ _ hi)
  | _ => exact ⟨rfl, rfl⟩

/-- Who enters a phase emits the phase's message. -/
theorem Does.emitted_of_enters (h : Does s i e) (henters : e.regs.phase ≠ s.regs.phase)
    (hflight : e.regs.phase ≠ .idle) : e.emitted = [txMessage e.regs.sessionMessage] := by
  cases h with
  | send | enterData => rfl
  | reset | timeout | succeed => exact absurd rfl hflight
  | quiet | writeAcc | mismatch | allocate | reply | deliver | sendTooLong | retransmit => exact absurd rfl henters

/-- A tick is no reception. -/
theorem not_receives_txTick (msg : Message) : ¬ Receives .txTick msg := by
  rintro (h | ⟨f, h, -⟩)
  · cases msg <;> cases h
  · cases h

/-- A tick emits nothing or the message of the phase. -/
theorem Does.emitted_of_txTick (h : Does s .txTick e) :
    e.emitted = [] ∨ e.emitted = [txMessage s.regs.sessionMessage] := by
  cases h with
  | quiet | writeAcc | timeout => exact .inl rfl
  | retransmit => exact .inr rfl
  | allocate hi => exact absurd (hi.resolve_left nofun) (not_receives_txTick _)
  | reply hi | deliver hi | enterData hi | succeed hi => exact absurd hi (not_receives_txTick _)

/-- The message of a phase does not change while the phase lasts. -/
theorem Does.sessionMessage_eq (h : Does s i e) (hreset : i ≠ .sysReset) (hsame : e.regs.phase = s.regs.phase)
    (hflight : s.regs.phase ≠ .idle) : e.regs.sessionMessage = s.regs.sessionMessage := by
  cases h with
  | reset => exact absurd rfl hreset
  | quiet | writeAcc | mismatch | allocate | reply | deliver | sendTooLong | retransmit => rfl
  | send hidle => exact absurd hidle hflight
  | timeout | succeed => exact absurd hsame.symm hflight
  | enterData _ hphase => rw [hphase] at hsame; cases hsame

/-- Settles O40: a clause for each of the five lemmas above. -/
theorem sendTransmitsIdenticalFrames : Obligations.SendTransmitsIdenticalFrames := by
  intro i s t h hreset
  obtain ⟨e, he, rfl⟩ := exec_does h
  rw [State.finish_regs, State.finish_emitted]
  exact ⟨he.chal_body_eq hreset, he.issued_corr_eq hreset, he.emitted_of_enters,
    fun hi => Does.emitted_of_txTick (hi ▸ he), he.sessionMessage_eq hreset⟩

/-! ### Deliveries (R196) -/

/-- An effect that delivers a body is the reception of a `DATA` with that body and a live nonce, and writes nothing. -/
theorem Does.of_delivers {b : Bytes} (h : Does s i e) (hb : .dlv b ∈ e.emitted) :
    ∃ n k j, Receives i (.data n k b) ∧ camCheck s.regs.slots n s.now = some j ∧ e.regs = s.regs := by
  cases h with
  | deliver hi hj =>
    simp only [txMessage, List.mem_cons, Emission.dlv.injEq, List.not_mem_nil, or_false, reduceCtorEq] at hb
    subst hb
    exact ⟨_, _, _, hi, hj, rfl⟩
  | allocate _ hem => exact absurd hb (hem b)
  | reply | send | retransmit | enterData => simp [txMessage] at hb
  | quiet | reset | writeAcc | mismatch | sendTooLong | timeout | succeed => cases hb

/-- A command receives a message in a frame only. -/
theorem Receives.exists_rxFrame {msg : Message} (h : Receives i msg) (hi : i.space = .host) :
    ∃ f, i = .rxFrame f ∧ carriedMessage f = some msg := by
  obtain rfl | hf := h
  · rw [msg.toInstr_space] at hi; cases hi
  · exact hf

/-- Settles O47: only a command delivers, by `Does.of_delivers`, and its record is the encoding of an `RX.FRAME`. -/
theorem deliveryNeedsALiveHandshake : Obligations.DeliveryNeedsALiveHandshake := by
  intro s t b h hb
  obtain rfl | ⟨later, -, rfl⟩ | ⟨record, now, rnd, later, hin, ⟨er, -, rfl⟩ | ⟨i, e, hd, he, rfl⟩⟩ :=
    step_cases h
  · simp at hb
  · simp at hb
  · simp at hb
  rw [State.finish_emitted] at hb
  obtain ⟨n, k, j, hi, hj, hregs⟩ := he.of_delivers hb
  obtain ⟨hspace, hrecord⟩ := encode_of_decodeCommand hd
  obtain ⟨f, rfl, hf⟩ := hi.exists_rxFrame hspace
  obtain ⟨⟨hlive, hiss⟩, -⟩ := camCheck_eq_some.mp hj
  obtain ⟨hvalid, hage⟩ := live_iff.mp hlive
  exact ⟨f, n, k, later, j, hrecord.symm ▸ hin, hf, hvalid, hiss, hage, hregs⟩

end does

/-! ### Reads (R57) -/

/-- The operation ends with the registers as they were, nothing emitted and no draw. -/
def ReadsOnly (s : State) (o : Host.Outcome State Fault Refusal) : Prop :=
  ∃ st result, o = .next (s.finish { regs := s.regs, status := st, result := result })

section reads
variable (s : State)

theorem exec_camChk_readsOnly (v : Nonce) : ReadsOnly s (exec (.camChk v) s) := by
  cases h : camCheck s.regs.slots v s.now with
  | none => exact ⟨_, _, exec_camChk_of_miss h⟩
  | some j => exact ⟨_, _, exec_camChk_of_hit h⟩

theorem exec_camRd_readsOnly (a : Byte) : ReadsOnly s (exec (.camRd a) s) := by
  obtain hlt | hge := Nat.lt_or_ge a.toNat 5
  · exact ⟨_, _, exec_camRd_of_lt hlt s⟩
  · exact ⟨_, _, exec_camRd_of_ge hge s⟩

theorem exec_frmEnc_readsOnly (m : Bytes) : ReadsOnly s (exec (.frmEnc m) s) := by
  obtain hlong | hle := Nat.lt_or_ge 29 m.length
  · exact ⟨_, _, exec_frmEnc_of_long hlong s⟩
  · exact ⟨_, _, exec_frmEnc_of_le hle s⟩

theorem exec_frmDec_readsOnly (f : Bytes) : ReadsOnly s (exec (.frmDec f) s) := by
  cases h : frameDecode f with
  | error st => exact ⟨_, _, exec_frmDec_of_error h s⟩
  | ok m => exact ⟨_, _, exec_frmDec_of_ok h s⟩

/-- The seven reads of R57. -/
theorem exec_read_readsOnly {i : Instr}
    (hi : i = .crcRead ∨ (∃ v, i = .camChk v) ∨ (∃ a, i = .camRd a) ∨ i = .camCnt ∨ i = .txStat ∨
      (∃ m, i = .frmEnc m) ∨ ∃ f, i = .frmDec f) : ReadsOnly s (exec i s) := by
  obtain rfl | ⟨v, rfl⟩ | ⟨a, rfl⟩ | rfl | rfl | ⟨m, rfl⟩ | ⟨f, rfl⟩ := hi
  · exact ⟨_, _, exec_crcRead s⟩
  · exact exec_camChk_readsOnly s v
  · exact exec_camRd_readsOnly s a
  · exact ⟨_, _, exec_camCnt s⟩
  · exact ⟨_, _, exec_txStat s⟩
  · exact exec_frmEnc_readsOnly s m
  · exact exec_frmDec_readsOnly s f

end reads

/-- Settles O53: `exec_read_readsOnly`. -/
theorem readsHaveNoSideEffects : Obligations.ReadsHaveNoSideEffects := by
  intro i s t hi h
  obtain ⟨st, result, hexec⟩ := exec_read_readsOnly s hi
  obtain rfl := Host.Outcome.next.inj (h.symm.trans hexec)
  exact ⟨rfl, State.finish_emitted s _, rfl⟩

/-! ### The invariants of the registers (R34) -/

/-- A slot after a write of a slot. -/
theorem slot_set (slots : Vector Slot numSlots) (j l : Fin numSlots) (x : Slot) :
    (slots.set j x)[l] = if j = l then x else slots[l] := by
  simp [Vector.getElem_set, Fin.ext_iff]

theorem Regs.reset_consistent : Regs.reset.Consistent := by
  refine ⟨fun h => absurd rfl h, by decide, by decide, fun l _ => ?_⟩
  rw [Regs.reset_slot]
  exact ⟨rfl, rfl, rfl⟩

/-- The budget of a phase that begins is the full one. -/
theorem fullBudget_le : (19#8).toNat ≤ config.retries - 1 := by decide

/-- A budget that is not used up is one lower after a retransmission. -/
theorem toNat_sub_one_le {r : BitVec 8} {n : Nat} (hr : r ≠ 0#8) (h : r.toNat ≤ n) : (r - 1#8).toNat ≤ n := by
  bv_omega

/-- Every effect keeps the invariants. -/
theorem Does.consistent {s : State} {i : Instr} {e : Effect} (h : Does s i e) (hs : s.regs.Consistent) :
    e.regs.Consistent := by
  obtain ⟨hout, hleft, hlen, hslots⟩ := hs
  cases h with
  | reset => exact Regs.reset_consistent
  | quiet | writeAcc | mismatch | reply | deliver => exact ⟨hout, hleft, hlen, hslots⟩
  | allocate =>
    refine ⟨hout, hleft, hlen, fun l hl => ?_⟩
    simp only [slot_set] at hl ⊢
    split at hl
    · cases hl
    next hne => rw [if_neg hne]; exact hslots l hl
  | sendTooLong hidle => exact ⟨fun hflight => absurd hidle hflight, hleft, hlen, hslots⟩
  | send _ hle =>
    refine ⟨fun _ => rfl, fullBudget_le, ?_, hslots⟩
    exact (Nat.mod_le _ _).trans hle
  | timeout | succeed => exact ⟨fun hflight => absurd rfl hflight, hleft, hlen, hslots⟩
  | retransmit _ _ hne => exact ⟨hout, toNat_sub_one_le hne hleft, hlen, hslots⟩
  | enterData _ hphase =>
    have hpending : s.regs.outcome = .pending := hout (by simp [hphase])
    exact ⟨fun _ => hpending, fullBudget_le, hlen, hslots⟩

/-- Settles O56: a step leaves the registers, resets them, or has an effect of an instruction. -/
theorem registerInvariantsAreKeptByEveryStep : Obligations.RegisterInvariantsAreKeptByEveryStep := by
  intro s t hs h
  obtain rfl | ⟨later, -, rfl⟩ | ⟨record, now, rnd, later, -, ⟨er, -, rfl⟩ | ⟨i, e, -, he, rfl⟩⟩ :=
    step_cases h
  · exact hs
  · exact Regs.reset_consistent
  · exact hs
  · exact he.consistent hs

end Sys2Proof.Machine
end

section
/-! PROOFS. The life of a CAM entry (spec/42_cam.md R147 to R149): what an instruction can do to the slots, the answer
to a repeated request, and the distinct challenges of live slots. Settles O29, O30, O31, O32, O57. -/

namespace Sys2Proof.Machine

/-! ### What an instruction does to the slots (R147) -/

/-- The slots after a request without a live match: a dead slot was written whole. -/
def AllocatesFor (c : Nonce) (s : State) (slots : Vector Slot numSlots) : Prop :=
  ∃ j : Fin numSlots, slots = s.regs.slots.set j ⟨true, c, s.rnd, s.now, .requestNonce⟩ ∧
    live s.now s.regs.slots[j] = false ∧
    ∀ l : Fin numSlots, live s.now s.regs.slots[l] = true → s.regs.slots[l].chal ≠ c

/-- An instruction leaves the slots, or is a reset, or is a request that allocates one and takes a draw. -/
theorem Does.slots_cases {s : State} {i : Instr} {e : Effect} (h : Does s i e) :
    e.regs.slots = s.regs.slots ∨
    (i = .sysReset ∧ e.regs.slots = Regs.reset.slots) ∨
    ∃ c, (i = .camReq c ∨ Receives i (.reqn c)) ∧ AllocatesFor c s e.regs.slots ∧ e.drew = true := by
  cases h with
  | reset => exact .inr (.inl ⟨rfl, rfl⟩)
  | allocate hi _ hno hdead => exact .inr (.inr ⟨_, hi, ⟨_, rfl, hdead, hno⟩, rfl⟩)
  | _ => exact .inl rfl

section allocates
variable {c : Nonce} {s : State} {slots : Vector Slot numSlots}

/-- Each slot after an allocation is the old one or the new entry in a dead slot. -/
theorem AllocatesFor.slot_cases (h : AllocatesFor c s slots) (l : Fin numSlots) :
    slots[l] = s.regs.slots[l] ∨
    (live s.now s.regs.slots[l] = false ∧ slots[l] = ⟨true, c, s.rnd, s.now, .requestNonce⟩) := by
  obtain ⟨j, rfl, hdead, -⟩ := h
  rw [slot_set]
  split
  next heq => exact .inr ⟨heq ▸ hdead, rfl⟩
  next => exact .inl rfl

/-- An allocation leaves the live slots. -/
theorem AllocatesFor.slot_of_live (h : AllocatesFor c s slots) {l : Fin numSlots}
    (hl : live s.now s.regs.slots[l] = true) : slots[l] = s.regs.slots[l] :=
  (h.slot_cases l).resolve_right fun hnew => by rw [hl] at hnew; cases hnew.1

/-- No live slot held the challenge before. -/
theorem AllocatesFor.chal_ne (h : AllocatesFor c s slots) {l : Fin numSlots}
    (hl : live s.now s.regs.slots[l] = true) : s.regs.slots[l].chal ≠ c := by
  obtain ⟨-, -, -, hno⟩ := h
  exact hno l hl

/-- Two different slots after an allocation: both old, or one of them the new entry. -/
theorem AllocatesFor.pair_cases (h : AllocatesFor c s slots) {l k : Fin numSlots} (hne : l ≠ k) :
    (slots[l] = s.regs.slots[l] ∧ slots[k] = s.regs.slots[k]) ∨
    (slots[l] = ⟨true, c, s.rnd, s.now, .requestNonce⟩ ∧ slots[k] = s.regs.slots[k]) ∨
    (slots[l] = s.regs.slots[l] ∧ slots[k] = ⟨true, c, s.rnd, s.now, .requestNonce⟩) := by
  obtain ⟨j, rfl, -, -⟩ := h
  rw [slot_set, slot_set]
  by_cases hl : j = l
  · rw [if_pos hl, if_neg fun hk => hne (hl.symm.trans hk)]
    exact .inr (.inl ⟨rfl, rfl⟩)
  rw [if_neg hl]
  by_cases hk : j = k
  · rw [if_pos hk]
    exact .inr (.inr ⟨rfl, rfl⟩)
  · rw [if_neg hk]
    exact .inl ⟨rfl, rfl⟩

end allocates

/-- Settles O29: the cases of `Does.slots_cases`, slot by slot. -/
theorem liveSlotsAreNeverModified : Obligations.LiveSlotsAreNeverModified := by
  intro i s t j hreset h
  obtain ⟨e, he, rfl⟩ := exec_does h
  rw [State.finish_regs, State.finish_drew]
  obtain hsame | ⟨hi, -⟩ | ⟨c, hi, halloc, hdrew⟩ := he.slots_cases
  · rw [hsame]
    exact ⟨fun _ => rfl, id, fun hne => absurd rfl hne⟩
  · exact absurd hi hreset
  refine ⟨halloc.slot_of_live, ?_⟩
  obtain hold | ⟨-, hnew⟩ := halloc.slot_cases j
  · rw [hold]
    exact ⟨id, fun hne => absurd rfl hne⟩
  · rw [hnew]
    exact ⟨fun _ => rfl, fun _ => ⟨c, hi, rfl, hdrew⟩⟩

/-! ### Live challenges at one time (R149) -/

theorem Regs.reset_liveChallengesDistinct (now : Time) : LiveChallengesDistinct now Regs.reset.slots := by
  intro j l _ hj
  rw [Regs.reset_slot, live_reset] at hj
  cases hj

/-- A request allocates only where no live slot holds its challenge, so live challenges stay distinct. -/
theorem AllocatesFor.liveChallengesDistinct {c : Nonce} {s : State} {slots : Vector Slot numSlots}
    (h : AllocatesFor c s slots) (hs : LiveChallengesDistinct s.now s.regs.slots) :
    LiveChallengesDistinct s.now slots := by
  intro l k hne hl hk
  obtain ⟨hl', hk'⟩ | ⟨hl', hk'⟩ | ⟨hl', hk'⟩ := h.pair_cases hne
  · rw [hl'] at hl ⊢
    rw [hk'] at hk ⊢
    exact hs l k hne hl hk
  · rw [hk'] at hk ⊢
    rw [hl']
    exact (h.chal_ne hk).symm
  · rw [hl'] at hl ⊢
    rw [hk']
    exact h.chal_ne hl

/-- Settles O31: reset clears the table, an allocation keeps it distinct, and nothing else writes a slot. -/
theorem liveChallengesStayDistinctAtOneTime : Obligations.LiveChallengesStayDistinctAtOneTime := by
  intro i s t hs h
  obtain ⟨e, he, rfl⟩ := exec_does h
  rw [State.finish_regs]
  obtain hsame | ⟨-, hreset⟩ | ⟨c, -, halloc, -⟩ := he.slots_cases
  · rw [hsame]
    exact hs
  · rw [hreset]
    exact Regs.reset_liveChallengesDistinct s.now
  · exact halloc.liveChallengesDistinct hs

/-! ### The ordered table (R257, R258) -/

/-- Without a wrap between them the distance of two times is their difference. -/
theorem toNat_sub_of_le {now t : Time} (h : t.toNat ≤ now.toNat) : (now - t).toNat = now.toNat - t.toNat :=
  BitVec.toNat_sub_of_le h

/-- In an ordered table only the youngest entry of a challenge can be live. -/
theorem TableOrdered.liveChallengesDistinct {now : Time} {slots : Vector Slot numSlots} (h : TableOrdered now slots) :
    LiveChallengesDistinct now slots := by
  obtain ⟨hpast, hapart⟩ := h
  intro l k hne hl hk hchal
  obtain ⟨hvl, hagel⟩ := live_iff.mp hl
  obtain ⟨hvk, hagek⟩ := live_iff.mp hk
  have hl' := hpast l hvl
  have hk' := hpast k hvk
  rw [toNat_sub_of_le hl'] at hagel
  rw [toNat_sub_of_le hk'] at hagek
  have hgap := hapart l k hne hvl hvk hchal
  rw [config_ttl] at hgap
  omega

/-- A table stays ordered while the clock goes on. -/
theorem TableOrdered.mono {now now' : Time} {slots : Vector Slot numSlots} (h : TableOrdered now slots)
    (hnow : now.toNat ≤ now'.toNat) : TableOrdered now' slots := by
  obtain ⟨hpast, hapart⟩ := h
  exact ⟨fun l hl => (hpast l hl).trans hnow, hapart⟩

theorem Regs.reset_tableOrdered (now : Time) : TableOrdered now Regs.reset.slots := by
  have hinvalid : ∀ l : Fin numSlots, Regs.reset.slots[l].valid ≠ true := fun l => by
    rw [Regs.reset_slot]
    exact Bool.false_ne_true
  exact ⟨fun l hl => absurd hl (hinvalid l), fun l _ _ hl => absurd hl (hinvalid l)⟩

/-- A valid entry of the past that is not live is at least `TTL` old. -/
theorem add_ttl_le_of_dead {now : Time} {e : Slot} (hvalid : e.valid = true) (hpast : e.t.toNat ≤ now.toNat)
    (hdead : live now e ≠ true) : e.t.toNat + config.ttl ≤ now.toNat := by
  have hage : ¬ (now - e.t).toNat < 1000 := fun hlt => hdead (live_iff.mpr ⟨hvalid, hlt⟩)
  rw [toNat_sub_of_le hpast] at hage
  rw [config_ttl]
  omega

/-- The new entry is made now, and every other entry of its challenge is at least `TTL` old. -/
theorem AllocatesFor.tableOrdered {c : Nonce} {s : State} {slots : Vector Slot numSlots} (h : AllocatesFor c s slots)
    (hs : TableOrdered s.now s.regs.slots) : TableOrdered s.now slots := by
  obtain ⟨hpast, hapart⟩ := hs
  have hold : ∀ l : Fin numSlots, s.regs.slots[l].valid = true → s.regs.slots[l].chal = c →
      s.regs.slots[l].t.toNat + config.ttl ≤ s.now.toNat := fun l hvalid hchal =>
    add_ttl_le_of_dead hvalid (hpast l hvalid) fun hlive => h.chal_ne hlive hchal
  refine ⟨fun l hl => ?_, fun l k hne hl hk hchal => ?_⟩
  · obtain hl' | ⟨-, hl'⟩ := h.slot_cases l
    · rw [hl'] at hl ⊢
      exact hpast l hl
    · rw [hl']
  · obtain ⟨hl', hk'⟩ | ⟨hl', hk'⟩ | ⟨hl', hk'⟩ := h.pair_cases hne
    · rw [hl'] at hl hchal ⊢
      rw [hk'] at hk hchal ⊢
      exact hapart l k hne hl hk hchal
    · rw [hk'] at hk hchal ⊢
      rw [hl'] at hchal ⊢
      exact .inr (hold k hk hchal.symm)
    · rw [hl'] at hl hchal ⊢
      rw [hk'] at hchal ⊢
      exact .inl (hold l hl hchal)

/-- Every effect keeps the table ordered at the time of its instruction. -/
theorem Does.tableOrdered {s : State} {i : Instr} {e : Effect} (h : Does s i e)
    (hs : TableOrdered s.now s.regs.slots) : TableOrdered s.now e.regs.slots := by
  obtain hsame | ⟨-, hreset⟩ | ⟨c, -, halloc, -⟩ := h.slots_cases
  · rw [hsame]
    exact hs
  · rw [hreset]
    exact Regs.reset_tableOrdered s.now
  · exact halloc.tableOrdered hs

/-- A step whose command does not come before `now` keeps the table ordered. -/
theorem step_tableOrdered {s t : State} (hs : TableOrdered s.now s.regs.slots)
    (hclock : ∀ record now rnd later, s.inputs = .command record now rnd :: later → s.now.toNat ≤ now.toNat)
    (h : step s = .next t) : TableOrdered t.now t.regs.slots := by
  obtain rfl | ⟨later, -, rfl⟩ | ⟨record, now, rnd, later, hin, hrun⟩ := step_cases h
  · exact hs
  · exact Regs.reset_tableOrdered _
  have hnow : TableOrdered now s.regs.slots := hs.mono (hclock record now rnd later hin)
  obtain ⟨er, -, rfl⟩ | ⟨i, e, -, he, rfl⟩ := hrun
  · exact hnow
  · exact he.tableOrdered hnow

/-- Settles O32: `step_tableOrdered`, and an ordered table has distinct live challenges. -/
theorem orderedTableIsKeptByEveryStep : Obligations.OrderedTableIsKeptByEveryStep := fun _ _ hs hclock h =>
  have ht := step_tableOrdered hs hclock h
  ⟨ht, ht.liveChallengesDistinct⟩

/-- Settles O57: each invariant at the reset registers. -/
theorem invariantsHoldAtReset : Obligations.InvariantsHoldAtReset :=
  ⟨Regs.reset_consistent, fun now => ⟨Regs.reset_tableOrdered now, Regs.reset_liveChallengesDistinct now⟩⟩

/-! ### The repeated request (R148) -/

/-- The table holds this valid entry in slot `i`, and no other slot of its challenge is live while the entry lives. -/
def HoldsAlone (e : Slot) (i : Fin numSlots) (slots : Vector Slot numSlots) : Prop :=
  e.valid = true ∧ slots[i] = e ∧
  ∀ j : Fin numSlots, j ≠ i → slots[j].chal = e.chal →
    ∀ now : Time, (now - e.t).toNat < 1000 → live now slots[j] = false

section holdsAlone
variable {e : Slot} {i : Fin numSlots} {slots : Vector Slot numSlots}

theorem HoldsAlone.live (h : HoldsAlone e i slots) {now : Time} (hnow : (now - e.t).toNat < 1000) :
    live now slots[i] = true := by
  obtain ⟨hvalid, hslot, -⟩ := h
  rw [hslot]
  exact live_iff.mpr ⟨hvalid, hnow⟩

/-- A request allocates no second entry of the challenge while the first one lives. -/
theorem AllocatesFor.holdsAlone {c : Nonce} {s : State} (h : AllocatesFor c s slots)
    (hs : HoldsAlone e i s.regs.slots) (hnow : (s.now - e.t).toNat < 1000) : HoldsAlone e i slots := by
  have hlive := hs.live hnow
  obtain ⟨hvalid, hslot, hothers⟩ := hs
  refine ⟨hvalid, (h.slot_of_live hlive).trans hslot, fun j hj hchal => ?_⟩
  obtain hold | ⟨-, hnew⟩ := h.slot_cases j
  · rw [hold] at hchal ⊢
    exact hothers j hj hchal
  · rw [hnew] at hchal
    exact absurd ((congrArg Slot.chal hslot).trans hchal.symm) (h.chal_ne hlive)

/-- No command but `SYS.RESET` disturbs the entry while it lives. -/
theorem step_holdsAlone {s t : State} {record : Bytes} {now : Time} {rnd : Nonce}
    (hs : HoldsAlone e i s.regs.slots) (hnow : (now - e.t).toNat < 1000)
    (hreset : decode .host record ≠ .ok .sysReset)
    (h : step { s with inputs := [.command record now rnd] } = .next t) : HoldsAlone e i t.regs.slots := by
  obtain rfl | ⟨later, hin, -⟩ | ⟨record', now', rnd', later, hin, hrun⟩ := step_cases h
  · exact hs
  · cases hin
  cases hin
  obtain ⟨er, -, rfl⟩ | ⟨instr, eff, hd, he, rfl⟩ := hrun
  · exact hs
  obtain hsame | ⟨rfl, -⟩ | ⟨c, -, halloc, -⟩ := he.slots_cases
  · rw [State.finish_regs, hsame]
    exact hs
  · exact absurd hd hreset
  · exact halloc.holdsAlone hs hnow

/-- While the entry lives a request for its challenge finds it. -/
theorem HoldsAlone.camRequest_eq (h : HoldsAlone e i slots) {now : Time} (hnow : (now - e.t).toNat < 1000)
    (rnd : Nonce) : camRequest slots e.chal now rnd = (.reused e.iss i, slots) := by
  have hlive := h.live hnow
  obtain ⟨-, hslot, hothers⟩ := h
  rw [camRequest_of_match hlive (congrArg Slot.chal hslot) (fun j hj hjlive hchal => ?_), hslot]
  rw [hothers j (Fin.ne_of_lt hj) hchal now hnow] at hjlive
  cases hjlive

end holdsAlone

/-- A run of inputs ends, as each of its steps does (R221). -/
theorem feed_ends (commands : List HostInput) (s : State) : ∃ t, feed commands s = .next t := by
  induction commands generalizing s with
  | nil => exact ⟨s, rfl⟩
  | cons x rest ih =>
    obtain ⟨u, hu, -⟩ := step_ends { s with inputs := [x] }
    simp only [feed, hu]
    exact ih u

/-- Settles O30: every command of the window keeps `HoldsAlone`, and then the request finds the entry. -/
theorem handshakeIsIdempotentWhileTheEntryLives : Obligations.HandshakeIsIdempotentWhileTheEntryLives := by
  intro s i commands now rnd hvalid halone hcommands hnow
  have hs : HoldsAlone s.regs.slots[i] i s.regs.slots := by
    refine ⟨hvalid, rfl, fun j hj hchal now' hnow' => ?_⟩
    have hdead := halone j hj hchal _ hnow'
    rwa [BitVec.ofNat_toNat, BitVec.setWidth_eq, add_sub_cancel] at hdead
  obtain ⟨t, ht⟩ := feed_ends commands s
  have hkept : HoldsAlone s.regs.slots[i] i t.regs.slots := by
    refine feed_induction (P := fun u => HoldsAlone s.regs.slots[i] i u.regs.slots) (fun x hx u v hu hv => ?_) hs ht
    obtain ⟨record, now', rnd', rfl, hwindow, hreset⟩ := hcommands x hx
    exact step_holdsAlone hu hwindow hreset hv
  have hreply := hkept.camRequest_eq hnow rnd
  refine ⟨t, _, ht, exec_camReq_of_reused (s := { t with now := now, rnd := rnd }) hreply, ?_, rfl⟩
  rw [State.finish_rsp]
  rfl

end Sys2Proof.Machine
end

section
/-! PROOFS. Runs of a session: the ticks of a phase that nobody answers (spec/43_retry.md R167, R168), the effect of
each message in a frame (spec/44_rx_dispatch.md R191), and the full exchange of two machines (R197). Settles O39, O42,
O48. -/

namespace Sys2Proof.Machine

/-! ### Ticks at the deadlines (R167, R168) -/

/-- The time of the tick number `k`, counted from 0. -/
def deadline (t0 : Time) (k : Nat) : Time := t0 + BitVec.ofNat 32 (50 * (k + 1))

/-- The registers after `k` retransmissions, each exactly at its deadline, of a phase entered at `t0`. -/
def Regs.afterTicks (r : Regs) (t0 : Time) (k : Nat) : Regs :=
  { r with retriesLeft := BitVec.ofNat 8 (19 - k), nextAt := deadline t0 k }

section ticks
variable (r : Regs) (t0 : Time) (k : Nat)

@[simp] theorem Regs.afterTicks_retriesLeft : (r.afterTicks t0 k).retriesLeft = BitVec.ofNat 8 (19 - k) := rfl

theorem deadline_succ : deadline t0 k + 50#32 = deadline t0 (k + 1) := by
  rw [deadline, deadline, BitVec.add_assoc, Nat.mul_succ 50 (k + 1), BitVec.ofNat_add]

/-- The registers of a phase just entered (R165). -/
theorem Regs.afterTicks_zero (hleft : r.retriesLeft = 19#8) (hnext : r.nextAt = t0 + 50#32) :
    r.afterTicks t0 0 = r := by
  have hzero : deadline t0 0 = t0 + 50#32 := rfl
  rw [Regs.afterTicks, hzero, ← hleft, ← hnext]

/-- One more retransmission at its deadline. -/
theorem Regs.afterTicks_succ (hk : k < 19) :
    { r.afterTicks t0 k with
      retriesLeft := (r.afterTicks t0 k).retriesLeft - 1#8, nextAt := deadline t0 k + 50#32 } =
      r.afterTicks t0 (k + 1) := by
  have hleft : BitVec.ofNat 8 (19 - k) - 1#8 = BitVec.ofNat 8 (19 - (k + 1)) := by
    refine BitVec.eq_of_toNat_eq ?_
    simp only [BitVec.toNat_sub, BitVec.toNat_ofNat]
    omega
  rw [Regs.afterTicks_retriesLeft, hleft, deadline_succ]
  rfl

/-- The budget lasts for nineteen retransmissions. -/
theorem retriesLeft_ne_zero (hk : k < 19) : BitVec.ofNat 8 (19 - k) ≠ 0#8 := fun h => by
  have hnat := congrArg BitVec.toNat h
  simp only [BitVec.toNat_ofNat] at hnat
  omega

/-- A deadline is due when it comes. -/
theorem due_self (t : Time) : due t t = true := by
  rw [due_iff, BitVec.sub_self]
  decide

end ticks

theorem deadlineTicks_succ (t0 : Time) (rnd : Nonce) (k : Nat) :
    deadlineTicks t0 rnd (k + 1) = deadlineTicks t0 rnd k ++ [.command [0x41#8] (deadline t0 k) rnd] := by
  simp only [deadlineTicks, List.range_succ, List.map_append, List.map_cons, List.map_nil]
  rfl

section unanswered
variable {s t u : State} {t0 : Time} {rnd : Nonce} {k : Nat}

/-- One tick more in a run of ticks. -/
theorem feed_deadlineTicks_succ (ht : feed (deadlineTicks t0 rnd k) s = .next t)
    (hu : exec .txTick { t with inputs := [], now := deadline t0 k, rnd := rnd } = .next u) :
    feed (deadlineTicks t0 rnd (k + 1)) s = .next u := by
  have hstep : step { t with inputs := [.command [0x41#8] (deadline t0 k) rnd] } = .next u :=
    (step_of_command (i := .txTick) rfl rfl).trans hu
  simp only [deadlineTicks_succ, feed_append, ht, feed, hstep]

/-- A tick at its deadline while the budget lasts. -/
theorem exec_txTick_at_deadline (hflight : s.regs.phase ≠ .idle) (hk : k < 19)
    (ht : t.regs = s.regs.afterTicks t0 k) (hnow : t.now = deadline t0 k) :
    exec .txTick t =
      .next (t.finish
        { regs := s.regs.afterTicks t0 (k + 1), status := .ok, result := [2#8],
          emitted := [txMessage s.regs.sessionMessage] }) := by
  rw [exec_txTick_of_retransmission (by rw [ht]; exact hflight) (by rw [ht, hnow]; exact due_self _)
    (by rw [ht]; exact retriesLeft_ne_zero k hk), ht, hnow, Regs.afterTicks_succ _ _ _ hk]
  rfl

/-- The registers after each of the first nineteen ticks of a phase that nobody answers. -/
theorem feed_deadlineTicks (hflight : s.regs.phase ≠ .idle) (hzero : s.regs.afterTicks t0 0 = s.regs) (hk : k ≤ 19) :
    ∃ t, feed (deadlineTicks t0 rnd k) s = .next t ∧ t.regs = s.regs.afterTicks t0 k := by
  induction k with
  | zero => exact ⟨s, rfl, hzero.symm⟩
  | succ k ih =>
    obtain ⟨t, ht, hregs⟩ := ih (Nat.le_of_succ_le hk)
    have hu := exec_txTick_at_deadline (t := { t with inputs := [], now := deadline t0 k, rnd := rnd }) hflight hk
      hregs rfl
    exact ⟨_, feed_deadlineTicks_succ ht hu, rfl⟩

end unanswered

/-- Settles O39: the run up to each tick is `feed_deadlineTicks`; the next tick retransmits, the twentieth times out. -/
theorem unansweredPhaseRetransmitsNineteenTimesThenFails :
    Obligations.UnansweredPhaseRetransmitsNineteenTimesThenFails := by
  intro s t0 rnd hflight hleft hnext
  have hzero := Regs.afterTicks_zero s.regs t0 hleft hnext
  refine ⟨fun k hk => ?_, ?_⟩
  · obtain ⟨t, ht, hregs⟩ := feed_deadlineTicks (rnd := rnd) hflight hzero (Nat.le_of_lt hk)
    have hu := exec_txTick_at_deadline (t := { t with inputs := [], now := deadline t0 k, rnd := rnd }) hflight hk
      hregs rfl
    refine ⟨_, feed_deadlineTicks_succ ht hu, State.finish_rsp _ _, State.finish_emitted _ _, rfl, ?_⟩
    rw [State.finish_regs, Regs.afterTicks_retriesLeft, Nat.add_comm k 1, Nat.sub_add_eq]
  · obtain ⟨t, ht, hregs⟩ := feed_deadlineTicks (rnd := rnd) hflight hzero (Nat.le_refl 19)
    have hu := exec_txTick_of_timeout (s := { t with inputs := [], now := deadline t0 19, rnd := rnd })
      (by rw [hregs]; exact hflight) (by rw [hregs]; exact due_self _) (by rw [hregs]; rfl)
    exact ⟨_, feed_deadlineTicks_succ ht hu, State.finish_rsp _ _, State.finish_emitted _ _, rfl, rfl, rfl⟩

/-! ### The effect of each message in a frame (R191) -/

/-- A frame whose payload is the encoding of a message has the message's effect. -/
theorem exec_rxFrame_of_encoded {f : Bytes} {msg : Message} (hf : frameDecode f = .ok (encodeMessage msg))
    (hwf : msg.toInstr.WellFormed) (s : State) : exec (.rxFrame f) s = exec msg.toInstr s :=
  exec_rxFrame_of_message hf (decodeMessage_encodeMessage hwf) s

/-- Settles O42: in each clause the frame's message is run, and the message's own lemma gives the effect. -/
theorem rxFrameTakesTheMessagesEffect : Obligations.RxFrameTakesTheMessagesEffect := by
  refine fun f s => ⟨fun c i hf hlive hchal hlow => ?reused, fun c i hf hno hdead hlow => ?allocated,
    fun n hf hphase => ?nonce, fun n k b i hf hlive hiss => ?data, fun hf hphase => ?ack⟩
  case reused =>
    exact (exec_rxFrame_of_encoded (msg := .reqn c) hf rfl s).trans
      (exec_reqn_of_reused (camRequest_of_match hlive hchal hlow s.rnd))
  case allocated =>
    exact (exec_rxFrame_of_encoded (msg := .reqn c) hf rfl s).trans
      (exec_reqn_of_allocated (camRequest_of_dead hno hdead hlow s.rnd))
  case nonce =>
    exact (exec_rxFrame_of_encoded (msg := .nonce s.regs.chal n) hf rfl s).trans (exec_nonce_of_match hphase rfl)
  case data =>
    have hb : b.length ≤ 24 := body_length_le_of_frameDecode hf
    obtain ⟨j, hj⟩ := exists_camCheck_eq_some hlive hiss
    exact (exec_rxFrame_of_encoded (msg := .data n k b) hf (wellFormed_data_iff.mpr hb) s).trans (exec_data_of_hit hj)
  case ack =>
    exact (exec_rxFrame_of_encoded (msg := .ack s.regs.corr) hf rfl s).trans (exec_ack_of_match hphase rfl)

/-! ### The full exchange (R197) -/

/-- A request without a live match, to a table with a slot that is not live, allocates. -/
theorem exists_camRequest_allocated {slots : Vector Slot numSlots} {c : Nonce} {now : Time} (rnd : Nonce)
    (hno : ∀ j : Fin numSlots, live now slots[j] = true → slots[j].chal ≠ c)
    (hfree : ∃ j : Fin numSlots, live now slots[j] = false) :
    ∃ i : Fin numSlots,
      camRequest slots c now rnd = (.allocated rnd i, slots.set i ⟨true, c, rnd, now, .requestNonce⟩) := by
  obtain ⟨j, hj⟩ := hfree
  obtain ⟨i, -, hlive, hchal, -⟩ | ⟨i, h, -⟩ | ⟨-, hall⟩ := camRequest_cases slots c now rnd
  · exact absurd hchal (hno i hlive)
  · exact ⟨i, h⟩
  · rw [(hall j).1] at hj
    cases hj

section entry
variable {slots : Vector Slot numSlots} {c n : Nonce} {t now : Time} (i : Fin numSlots)

/-- An entry made less than 1000 ms ago is live. -/
theorem live_set_self (h : (now - t).toNat < 1000) :
    live now (slots.set i ⟨true, c, n, t, .requestNonce⟩)[i] = true := by
  rw [slot_set, if_pos rfl]
  exact live_iff.mpr ⟨rfl, h⟩

/-- A nonce issued less than 1000 ms ago is found. -/
theorem exists_camCheck_set (h : (now - t).toNat < 1000) :
    ∃ j, camCheck (slots.set i ⟨true, c, n, t, .requestNonce⟩) n now = some j :=
  exists_camCheck_eq_some (i := i) (live_set_self i h) (by rw [slot_set, if_pos rfl])

/-- One entry in a table without another has a count of one. -/
theorem liveCount_set_eq_one (hinvalid : ∀ j : Fin numSlots, slots[j].valid = false) (h : (now - t).toNat < 1000) :
    liveCount (slots.set i ⟨true, c, n, t, .requestNonce⟩) now = 1 := by
  rw [liveCount_eq_card, Finset.card_eq_one]
  refine ⟨i, Finset.ext fun j => ?_⟩
  rw [Finset.mem_filter, Finset.mem_singleton]
  constructor
  · rintro ⟨-, hj⟩
    by_contra hne
    rw [slot_set, if_neg (Ne.symm hne), live_iff, hinvalid j] at hj
    cases hj.1
  · rintro rfl
    exact ⟨Finset.mem_univ j, live_set_self j h⟩

end entry

/-- The frame in which SNPE transmits a message (R81, R120). -/
def messageFrame (msg : Message) : Bytes := frameEncode (encodeMessage msg)

theorem txMessage_eq (msg : Message) : txMessage msg = .txf (messageFrame msg) := rfl

section hops
variable {s : State} {c n k : Nonce} {p : Bytes}

/-- The sender starts: it transmits the `REQN` of the draw, and the body is stored (R162). -/
theorem exchange_send (hidle : s.regs.phase = .idle) (hp : p.length ≤ 24) :
    ∃ t, exec (.txSend p) s = .next t ∧ t.emitted = [.txf (messageFrame (.reqn s.rnd))] ∧
      t.regs.phase = .awaitingNonce ∧ t.regs.chal = s.rnd ∧ t.regs.storedBody = p :=
  ⟨_, exec_txSend_of_le hidle hp, State.finish_emitted _ _, rfl, rfl, storedBody_of_write _ hp ⟨_, rfl⟩ rfl⟩

/-- The responder makes an entry and transmits its nonce (R192). -/
theorem exchange_reqn {i : Fin numSlots} {slots : Vector Slot numSlots}
    (h : camRequest s.regs.slots c s.now s.rnd = (.allocated n i, slots)) :
    ∃ t, exec (.rxFrame (messageFrame (.reqn c))) s = .next t ∧ t.rsp = some ⟨.ok, [2#8]⟩ ∧
      t.emitted = [.txf (messageFrame (.nonce c n))] ∧ t.regs.slots = slots :=
  ⟨_, (exec_rxFrame_frameEncode rfl s).trans (exec_reqn_of_allocated h), State.finish_rsp _ _,
    State.finish_emitted _ _, rfl⟩

/-- The sender takes the nonce and transmits the `DATA` (R165). -/
theorem exchange_nonce (hphase : s.regs.phase = .awaitingNonce) (hchal : s.regs.chal = c)
    (hbody : s.regs.storedBody = p) :
    ∃ t, exec (.rxFrame (messageFrame (.nonce c n))) s = .next t ∧ t.rsp = some ⟨.ok, [4#8]⟩ ∧
      t.emitted = [.txf (messageFrame (.data n s.rnd p))] ∧ t.regs.phase = .awaitingAck ∧ t.regs.corr = s.rnd := by
  subst hbody
  exact ⟨_, (exec_rxFrame_frameEncode rfl s).trans (exec_nonce_of_match hphase hchal.symm), State.finish_rsp _ _,
    State.finish_emitted _ _, rfl, rfl⟩

/-- The responder delivers the body and transmits the `ACK` (R193). -/
theorem exchange_data (hp : p.length ≤ 24) (h : ∃ j, camCheck s.regs.slots n s.now = some j) :
    ∃ t, exec (.rxFrame (messageFrame (.data n k p))) s = .next t ∧ t.rsp = some ⟨.ok, [3#8]⟩ ∧
      t.emitted = [.dlv p, .txf (messageFrame (.ack k))] ∧ t.regs.slots = s.regs.slots := by
  obtain ⟨j, hj⟩ := h
  exact ⟨_, (exec_rxFrame_frameEncode (msg := .data n k p) (wellFormed_data_iff.mpr hp) s).trans (exec_data_of_hit hj),
    State.finish_rsp _ _, State.finish_emitted _ _, rfl⟩

/-- The sender takes the `ACK` and has succeeded (R166). -/
theorem exchange_ack (hphase : s.regs.phase = .awaitingAck) (hcorr : s.regs.corr = k) :
    ∃ t, exec (.rxFrame (messageFrame (.ack k))) s = .next t ∧ t.rsp = some ⟨.ok, [5#8]⟩ ∧
      t.regs.phase = .idle ∧ t.regs.outcome = .success :=
  ⟨_, (exec_rxFrame_frameEncode rfl s).trans (exec_ack_of_match hphase hcorr.symm), State.finish_rsp _ _, rfl, rfl⟩

end hops

/-- Settles O48: the five operations in turn, each on the frame that the one before emitted. -/
theorem fullExchangeDeliversAndSucceeds : Obligations.FullExchangeDeliversAndSucceeds := by
  intro A B p tA1 tA2 tA3 tB1 tB2 c n1 n2 hidle hp hno hfree hage
  obtain ⟨i, halloc⟩ := exists_camRequest_allocated n1 hno hfree
  obtain ⟨A1, hA1, hf1, hphase1, hchal1, hbody1⟩ := exchange_send (s := { A with now := tA1, rnd := c }) hidle hp
  obtain ⟨B1, hB1, hev1, hf2, hslots1⟩ := exchange_reqn (s := { B with now := tB1, rnd := n1 }) halloc
  obtain ⟨A2, hA2, hev2, hf3, hphase2, hcorr2⟩ :=
    exchange_nonce (s := { A1 with now := tA2, rnd := n2 }) (n := n1) hphase1 hchal1 hbody1
  have hcheck : ∃ j, camCheck B1.regs.slots n1 tB2 = some j := hslots1 ▸ exists_camCheck_set i hage
  obtain ⟨B2, hB2, hev3, hf4, hslots2⟩ := exchange_data (s := { B1 with now := tB2 }) (k := n2) hp hcheck
  obtain ⟨A3, hA3, hev4, hphase3, houtcome3⟩ := exchange_ack (s := { A2 with now := tA3 }) hphase2 hcorr2
  refine ⟨A1, A2, A3, B1, B2, _, _, _, _, hA1, hf1, hB1, hev1, hf2, hA2, hev2, hf3, hB2, hev3, hf4, hA3, hev4,
    hphase3, houtcome3, fun hempty => ?_⟩
  have hslots := hslots2.trans hslots1
  rw [hslots]
  exact liveCount_set_eq_one i hempty hage

end Sys2Proof.Machine
end

section
/-! PROOFS. What an operation depends on (spec/10_state.md R37, R40, R42, spec/60_exceptions.md R223): its registers,
`NOW` where the access matrix marks it, and `RND` where it takes a draw. Settles O54, O55. -/

namespace Sys2Proof.Machine

/-- The state with the same registers and anything else on its ports. -/
def State.withPorts (s : State) (inputs : List HostInput) (now : Time) (rnd : Nonce) (outputs : List Output)
    (drew : Bool) : State :=
  { regs := s.regs, inputs := inputs, now := now, rnd := rnd, outputs := outputs, drew := drew }

/-- A state with the same registers differs in its ports only. -/
theorem State.eq_withPorts {s s' : State} (h : s'.regs = s.regs) :
    s' = s.withPorts s'.inputs s'.now s'.rnd s'.outputs s'.drew := by
  rw [State.withPorts, ← h]

/-- The operation has one effect for all states with the same registers, the same `NOW` if it samples it, and the same
`RND` if the effect takes a draw. -/
def Samples (samplesNow : Bool) (op : State → Host.Outcome State Fault Refusal) : Prop :=
  ∀ (s : State) (inputs : List HostInput) (now : Time) (rnd : Nonce) (outputs : List Output) (drew : Bool),
    (samplesNow = true → now = s.now) →
    ∃ e : Effect, op s = .next (s.finish e) ∧
      ((e.drew = true → rnd = s.rnd) →
        op (s.withPorts inputs now rnd outputs drew) =
          .next ((s.withPorts inputs now rnd outputs drew).finish e))

section samples
variable {op : State → Host.Outcome State Fault Refusal}

/-- An operation whose effect is a function of the registers. -/
theorem samples_of_regs {samplesNow : Bool} (effect : Regs → Effect)
    (h : ∀ s, op s = .next (s.finish (effect s.regs))) : Samples samplesNow op :=
  fun s _ _ _ _ _ _ => ⟨effect s.regs, h s, fun _ => h _⟩

/-- An operation whose effect is a function of the registers and `NOW`. -/
theorem samples_of_regs_now (effect : Regs → Time → Effect)
    (h : ∀ s, op s = .next (s.finish (effect s.regs s.now))) : Samples true op := by
  intro s inputs now rnd outputs drew hnow
  obtain rfl := hnow rfl
  exact ⟨effect s.regs s.now, h s, fun _ => h _⟩

/-! ### The commands -/

theorem exec_crcGen_samples (p : Bytes) : Samples false (exec (.crcGen p)) := by
  obtain hlong | hle := Nat.lt_or_ge 29 p.length
  · exact samples_of_regs (fun r => { regs := r, status := .eLen }) (exec_crcGen_of_long hlong)
  · exact samples_of_regs (fun r => ⟨{ r with acc := payloadCksum p }, .ok, _, [], false⟩) (exec_crcGen_of_le hle)

theorem exec_crcChk_samples (k : Cksum) (p : Bytes) : Samples false (exec (.crcChk k p)) := by
  obtain hlong | hle := Nat.lt_or_ge 29 p.length
  · exact samples_of_regs (fun r => { regs := r, status := .eLen }) (exec_crcChk_of_long k hlong)
  · exact samples_of_regs (fun r => ⟨{ r with acc := payloadCksum p }, _, _, [], false⟩) (exec_crcChk_of_le k hle)

theorem exec_frmEnc_samples (m : Bytes) : Samples false (exec (.frmEnc m)) := by
  obtain hlong | hle := Nat.lt_or_ge 29 m.length
  · exact samples_of_regs (fun r => { regs := r, status := .eLen }) (exec_frmEnc_of_long hlong)
  · exact samples_of_regs (fun r => { regs := r, status := .ok, result := frameEncode m }) (exec_frmEnc_of_le hle)

theorem exec_frmDec_samples (f : Bytes) : Samples false (exec (.frmDec f)) := by
  cases h : frameDecode f with
  | error st => exact samples_of_regs (fun r => { regs := r, status := st }) (exec_frmDec_of_error h)
  | ok m =>
    exact samples_of_regs (fun r => { regs := r, status := .ok, result := countByte m :: m }) (exec_frmDec_of_ok h)

/-- Only an allocation depends on the draw it takes (R141). -/
theorem exec_camReq_samples (v : Nonce) : Samples true (exec (.camReq v)) := by
  intro s inputs now rnd outputs drew hnow
  obtain rfl := hnow rfl
  obtain ⟨j, h, hlive, hchal, hlow⟩ | ⟨j, h, -⟩ | ⟨h, hfull⟩ := camRequest_cases s.regs.slots v s.now s.rnd
  · exact ⟨_, exec_camReq_of_reused h, fun _ => exec_camReq_of_reused (camRequest_of_match hlive hchal hlow rnd)⟩
  · refine ⟨_, exec_camReq_of_allocated h, fun hrnd => ?_⟩
    obtain rfl := hrnd rfl
    exact exec_camReq_of_allocated h
  · exact ⟨_, exec_camReq_of_full h, fun _ => exec_camReq_of_full (camRequest_of_full hfull rnd)⟩

theorem exec_camChk_samples (v : Nonce) : Samples true (exec (.camChk v)) := by
  intro s inputs now rnd outputs drew hnow
  obtain rfl := hnow rfl
  cases h : camCheck s.regs.slots v s.now with
  | none => exact ⟨_, exec_camChk_of_miss h, fun _ => exec_camChk_of_miss h⟩
  | some j => exact ⟨_, exec_camChk_of_hit h, fun _ => exec_camChk_of_hit h⟩

theorem exec_camRd_samples (a : Byte) : Samples true (exec (.camRd a)) := by
  obtain hlt | hge := Nat.lt_or_ge a.toNat 5
  · exact samples_of_regs_now (fun r now => ⟨r, .ok, slotReadback now r.slots[a.toNat], [], false⟩)
      (exec_camRd_of_lt hlt)
  · exact samples_of_regs (fun r => { regs := r, status := .eIdx }) (exec_camRd_of_ge hge)

/-- An accepted send takes a draw; a refused one depends on the registers only (R162). -/
theorem exec_txSend_samples (p : Bytes) : Samples true (exec (.txSend p)) := by
  intro s inputs now rnd outputs drew hnow
  obtain rfl := hnow rfl
  by_cases hidle : s.regs.phase = .idle
  · obtain hlong | hle := Nat.lt_or_ge 24 p.length
    · exact ⟨_, exec_txSend_of_long hidle hlong, fun _ => exec_txSend_of_long hidle hlong⟩
    · refine ⟨_, exec_txSend_of_le hidle hle, fun hrnd => ?_⟩
      obtain rfl := hrnd rfl
      exact exec_txSend_of_le hidle hle
  · exact ⟨_, exec_txSend_of_busy hidle, fun _ => exec_txSend_of_busy hidle⟩

theorem exec_txTick_samples : Samples true (exec .txTick) := by
  intro s inputs now rnd outputs drew hnow
  obtain rfl := hnow rfl
  by_cases hidle : s.regs.phase = .idle
  · exact ⟨_, exec_txTick_of_idle hidle, fun _ => exec_txTick_of_idle hidle⟩
  cases hdue : due s.now s.regs.nextAt with
  | false => exact ⟨_, exec_txTick_of_waiting hidle hdue, fun _ => exec_txTick_of_waiting hidle hdue⟩
  | true =>
    by_cases hleft : s.regs.retriesLeft = 0#8
    · exact ⟨_, exec_txTick_of_timeout hidle hdue hleft, fun _ => exec_txTick_of_timeout hidle hdue hleft⟩
    · exact ⟨_, exec_txTick_of_retransmission hidle hdue hleft,
        fun _ => exec_txTick_of_retransmission hidle hdue hleft⟩

/-! ### The messages, alone or in a frame -/

theorem exec_reqn_samples (c : Nonce) : Samples true (exec (.reqn c)) := by
  intro s inputs now rnd outputs drew hnow
  obtain rfl := hnow rfl
  obtain ⟨j, h, hlive, hchal, hlow⟩ | ⟨j, h, -⟩ | ⟨h, hfull⟩ := camRequest_cases s.regs.slots c s.now s.rnd
  · exact ⟨_, exec_reqn_of_reused h, fun _ => exec_reqn_of_reused (camRequest_of_match hlive hchal hlow rnd)⟩
  · refine ⟨_, exec_reqn_of_allocated h, fun hrnd => ?_⟩
    obtain rfl := hrnd rfl
    exact exec_reqn_of_allocated h
  · exact ⟨_, exec_reqn_of_full h, fun _ => exec_reqn_of_full (camRequest_of_full hfull rnd)⟩

theorem exec_nonce_samples (c n : Nonce) : Samples true (exec (.nonce c n)) := by
  intro s inputs now rnd outputs drew hnow
  obtain rfl := hnow rfl
  by_cases h : s.regs.phase = .awaitingNonce ∧ c = s.regs.chal
  · obtain ⟨hphase, hc⟩ := h
    refine ⟨_, exec_nonce_of_match hphase hc, fun hrnd => ?_⟩
    obtain rfl := hrnd rfl
    exact exec_nonce_of_match hphase hc
  · exact ⟨_, exec_nonce_of_noMatch (not_and_or.mp h), fun _ => exec_nonce_of_noMatch (not_and_or.mp h)⟩

theorem exec_data_samples (n k : Nonce) (b : Bytes) : Samples true (exec (.data n k b)) := by
  intro s inputs now rnd outputs drew hnow
  obtain rfl := hnow rfl
  cases h : camCheck s.regs.slots n s.now with
  | none => exact ⟨_, exec_data_of_miss h, fun _ => exec_data_of_miss h⟩
  | some j => exact ⟨_, exec_data_of_hit h, fun _ => exec_data_of_hit h⟩

theorem exec_ack_samples {samplesNow : Bool} (k : Nonce) : Samples samplesNow (exec (.ack k)) := by
  intro s inputs now rnd outputs drew _
  by_cases h : s.regs.phase = .awaitingAck ∧ k = s.regs.corr
  · obtain ⟨hphase, hk⟩ := h
    exact ⟨_, exec_ack_of_match hphase hk, fun _ => exec_ack_of_match hphase hk⟩
  · exact ⟨_, exec_ack_of_noMatch (not_and_or.mp h), fun _ => exec_ack_of_noMatch (not_and_or.mp h)⟩

/-- What an `RX.FRAME` does is decided by its frame, and then by the message (R191). -/
theorem exec_rxFrame_samples (f : Bytes) : Samples true (exec (.rxFrame f)) := by
  cases hf : frameDecode f with
  | error st => exact samples_of_regs (fun r => { regs := r, status := st }) (exec_rxFrame_of_frameError hf)
  | ok m =>
    cases hm : decodeMessage m with
    | error er =>
      exact samples_of_regs (fun r => { regs := r, status := er.status }) (exec_rxFrame_of_messageError hf hm)
    | ok msg =>
      rw [funext (exec_rxFrame_of_message hf hm)]
      cases msg with
      | reqn c => exact exec_reqn_samples c
      | nonce c n => exact exec_nonce_samples c n
      | data n k b => exact exec_data_samples n k b
      | ack k => exact exec_ack_samples k

end samples

/-- Every instruction samples `NOW` where R42 marks it, and `RND` where it takes a draw. -/
theorem exec_samples (i : Instr) : Samples (readsNow i) (exec i) := by
  cases i with
  | sysReset => exact samples_of_regs (fun _ => { regs := Regs.reset, status := .ok }) exec_sysReset
  | crcInit => exact samples_of_regs (fun r => { regs := { r with acc := 0x1021#16 }, status := .ok }) exec_crcInit
  | crcByte a =>
    exact samples_of_regs (fun r => { regs := { r with acc := ckStep r.acc a }, status := .ok }) (exec_crcByte a)
  | crcRead =>
    exact samples_of_regs (fun r => { regs := r, status := .ok, result := [hi r.acc, lo r.acc] }) exec_crcRead
  | crcGen p => exact exec_crcGen_samples p
  | crcChk k p => exact exec_crcChk_samples k p
  | frmEnc m => exact exec_frmEnc_samples m
  | frmDec f => exact exec_frmDec_samples f
  | camReq v => exact exec_camReq_samples v
  | camChk v => exact exec_camChk_samples v
  | camRd a => exact exec_camRd_samples a
  | camCnt =>
    exact samples_of_regs_now (fun r now => ⟨r, .ok, [BitVec.ofNat 8 (liveCount r.slots now)], [], false⟩)
      exec_camCnt
  | txSend p => exact exec_txSend_samples p
  | txTick => exact exec_txTick_samples
  | txStat =>
    exact samples_of_regs (fun r => ⟨r, .ok, [r.phase.code, r.outcome.code, r.retriesLeft], [], false⟩) exec_txStat
  | rxFrame f => exact exec_rxFrame_samples f
  | reqn c => exact exec_reqn_samples c
  | nonce c n => exact exec_nonce_samples c n
  | data n k b => exact exec_data_samples n k b
  | ack k => exact exec_ack_samples k

/-- Settles O54: `exec_samples` where `NOW` and `RND` are the same. -/
theorem operationsDependOnRegistersAndInputsOnly : Obligations.OperationsDependOnRegistersAndInputsOnly := by
  intro i s s' t hregs hnow hrnd h
  obtain ⟨e, he, hports⟩ := exec_samples i s s'.inputs s'.now s'.rnd s'.outputs s'.drew fun _ => hnow
  obtain rfl := Host.Outcome.next.inj (h.symm.trans he)
  rw [State.eq_withPorts hregs, hports fun _ => hrnd, hnow, hrnd]
  rfl

/-- An effect that takes a draw is of one of the four kinds of R40. -/
theorem Does.of_drew {s : State} {i : Instr} {e : Effect} (h : Does s i e) (hdrew : e.drew = true) :
    (∃ p, i = .txSend p) ∨ (∃ c, i = .camReq c) ∨ (∃ c, Receives i (.reqn c)) ∨ ∃ c n, Receives i (.nonce c n) := by
  cases h with
  | send => exact .inl ⟨_, rfl⟩
  | allocate hi =>
    obtain hi | hi := hi
    · exact .inr (.inl ⟨_, hi⟩)
    · exact .inr (.inr (.inl ⟨_, hi⟩))
  | enterData hi => exact .inr (.inr (.inr ⟨_, _, hi⟩))
  | _ => cases hdrew

/-- Settles O55: `exec_samples` without a draw and without `NOW`, and `Does.of_drew` for who takes a draw. -/
theorem sampledInputsAreThoseOfTheAccessMatrix : Obligations.SampledInputsAreThoseOfTheAccessMatrix := by
  refine ⟨fun i s t r h hdrew => ?_, fun i s t h hdrew => ?_, fun i s t now hi h => ?_⟩
  · obtain ⟨e, he, hports⟩ := exec_samples i s s.inputs s.now r s.outputs s.drew fun _ => rfl
    obtain rfl := Host.Outcome.next.inj (h.symm.trans he)
    exact hports fun hdraws => absurd hdraws (Bool.eq_false_iff.mp hdrew)
  · obtain ⟨e, he, rfl⟩ := exec_does h
    exact he.of_drew hdrew
  · obtain ⟨e, he, hports⟩ := exec_samples i s s.inputs now s.rnd s.outputs s.drew fun hreads => by
      rw [hi] at hreads
      cases hreads
    obtain rfl := Host.Outcome.next.inj (h.symm.trans he)
    exact hports fun _ => rfl

end Sys2Proof.Machine
end

section
/-! PROOFS. The model's own forms of a step (logs 1, 3 and 5), and what the operations do right after reset
(spec/70_reset_and_hazards.md R252). Settles O1, O3, O7. -/

namespace Sys2Proof.Machine

/-- Settles O1: the fields of `State.finish` as its definition has them. -/
theorem finishWritesRegistersAndOutputsOnly : Obligations.FinishWritesRegistersAndOutputsOnly := fun _ _ => rfl

/-- A step without an input. -/
theorem step_of_nothing {s : State} (hin : s.inputs = []) : step s = .next s.idle := by
  rw [step, fetch_nothing hin]

/-- Settles O3: `step_of_nothing` and `step_of_reset`. -/
theorem stepWithoutCommandIdlesOrResets : Obligations.StepWithoutCommandIdlesOrResets :=
  ⟨fun _ hin => step_of_nothing hin, fun _ _ hin => step_of_reset hin⟩

/-! ### Right after reset (R252) -/

/-- Nothing is live after reset, at any time. -/
theorem live_reset_slot (now : Time) (j : Fin numSlots) : live now Regs.reset.slots[j] = false := by
  rw [Regs.reset_slot, live_reset]

theorem camCheck_reset (v : Nonce) (now : Time) : camCheck Regs.reset.slots v now = none :=
  camCheck_eq_none.mpr fun j hj => by
    rw [live_reset_slot] at hj
    cases hj

theorem liveCount_reset (now : Time) : liveCount Regs.reset.slots now = 0 := by
  rw [liveCount_eq_card, Finset.card_eq_zero, Finset.filter_eq_empty_iff]
  intro j _
  rw [live_reset_slot]
  exact Bool.false_ne_true

/-- With the initial value in `ACC` a `CRC.BYTE` does what it does after a `CRC.INIT`. -/
theorem exec_crcByte_of_acc_init {s : State} (h : s.regs.acc = 0x1021#16) (a : Byte) :
    exec (.crcByte a) s = execAll [.crcInit, .crcByte a] s := by
  simp only [execAll, exec_crcInit, exec_crcByte, State.finish_finish, State.finish_regs, h]

/-- Settles O7: an empty table has no match and no live slot, the phase is idle, and `ACC` is initialised. -/
theorem afterResetNothingIsLiveOrPending : Obligations.AfterResetNothingIsLiveOrPending := by
  intro s hs
  have hphase : s.regs.phase = .idle := by rw [hs]; rfl
  have hmiss : ∀ v, camCheck s.regs.slots v s.now = none := fun v => by rw [hs]; exact camCheck_reset v s.now
  refine ⟨?count, fun v => exec_camChk_of_miss (hmiss v), fun n k b => exec_data_of_miss (hmiss n),
    fun c n => exec_nonce_of_noMatch (.inl ?nonce), fun k => exec_ack_of_noMatch (.inl ?ack),
    exec_txTick_of_idle hphase, ?stat, fun a => exec_crcByte_of_acc_init ?acc a⟩
  case count => rw [exec_camCnt, hs, liveCount_reset]
  case nonce => rw [hphase]; exact nofun
  case ack => rw [hphase]; exact nofun
  case stat => rw [exec_txStat, hs]; rfl
  case acc => rw [hs]; rfl

end Sys2Proof.Machine
end
